-- ==== Sys2Proof/Word.lean ====
section
/-! DEFINITION. The word types of the BMP388 Compensation Engine (BCE) and their plainest arithmetic.
Bits are numbered from 0, the least significant (spec/00_scope.md R10). -/

namespace Sys2Proof

/-- A command word, a host CSR word: 32 bits (spec/00_scope.md R9). -/
abbrev Word := BitVec 32

/-- A byte on the bus, a device register address, an available count: 8 bits (R9). -/
abbrev Byte := BitVec 8

/-- A 7-bit bus device address (spec/20_memory.md R80 (3)). -/
abbrev BusAddr := BitVec 7

/-- A raw, uncompensated sample: a u24 (spec/00_scope.md R17, spec/42_compensation.md R212). -/
abbrev Raw := BitVec 24

/-- One element of CAL or STAGE: 16 bits (spec/10_state.md R31). -/
abbrev CellWord := BitVec 16

/-- `a << k` of spec/00_scope.md R11: exactly `a * 2^k` on the mathematical integers. -/
def shl (a : Int) (k : Nat) : Int := a * 2 ^ k

end Sys2Proof
end

