-- ==== Sys2Proof/Syntax.lean ====
section
/-! DEFINITION. The 15 commands of BCE-1 (spec/30_encoding.md R113), one constructor for each row of
spec/opcode_table.json, in the table's order. Every operand has the width of its field (R111), read
as an unsigned number (R116). -/

namespace Sys2Proof

/-- A BCE-1 command with its operands, each named after its field of spec/30_encoding.md R111. -/
inductive Instr where
  /-- READ (R145): read `w + 1` bytes from device register `reg`. -/
  | read (w : BitVec 2) (reg : BitVec 8)
  /-- WRITE (R146): write the byte `val` to device register `reg`. -/
  | write (reg : BitVec 8) (val : BitVec 8)
  /-- SETBIT (R147): read-modify-write of bit `bit` of `reg`, with DOC's `on` argument. -/
  | setbit (reg : BitVec 8) (bit : BitVec 3) (on : BitVec 1)
  /-- WFIELD (R148): OR `val << sh` into device register `reg`. -/
  | wfield (reg : BitVec 8) (sh : BitVec 3) (val : BitVec 8)
  /-- LOADCAL (R182): read the 14 calibration cells. -/
  | loadcal
  /-- COMPT (R220): compensate the raw temperature `raw`. -/
  | compt (raw : BitVec 24)
  /-- COMPP (R221): compensate the raw pressure `raw`. -/
  | compp (raw : BitVec 24)
  /-- MEAST (R222): read a raw temperature, set its flag bit, compensate. -/
  | meast
  /-- MEASP (R223): read a raw pressure, set its flag bit, compensate. -/
  | measp
  /-- SETOSR (R264): OR the two oversampling codes into their register. -/
  | setosr (osrt : BitVec 3) (osrp : BitVec 3)
  /-- GETOSR (R265): read the oversampling register. -/
  | getosr
  /-- SETIIR (R266): OR the IIR filter code into its register. -/
  | setiir (iir : BitVec 3)
  /-- GETIIR (R267): read the IIR filter register. -/
  | getiir
  /-- SETODR (R268): OR the output data rate code into its register. -/
  | setodr (odr : BitVec 5)
  /-- GETODR (R269): read the output data rate register. -/
  | getodr
deriving DecidableEq, Repr

end Sys2Proof
end

