-- ==== Sys2Proof/Decode.lean ====
section
/-! DEFINITION. Decoding a command word (spec/30_encoding.md R113, R114, R115, R117), total on every
32-bit word and rejecting by name, and after it the encoder, written from the formats of R112. -/

namespace Sys2Proof

/-- Why a word spells no command. Both make the block raise ILLEGAL_COMMAND (spec/60_exceptions.md
R299). -/
inductive DecodeError where
  /-- OPC is 0x0 (spec/30_encoding.md R115). -/
  | reservedOpcode
  /-- A bit that the format of this mnemonic marks `0` is 1 (R114). -/
  | reservedBit (mnemonic : String)
deriving DecidableEq, Repr

/-- One row of the opcode map of spec/30_encoding.md R113: `value` is its match, and `build` reads
the fields of its format (R111). -/
structure OpcodeRow where
  mnemonic : String
  opc : BitVec 4
  value : Word
  mask : Word
  build : Word → Instr

/-- The opcode map (spec/30_encoding.md R113), with the field positions of R111. -/
def opcodeMap : List OpcodeRow := [
  ⟨"READ", 0x1#4, 0x10000000#32, 0xFCFFFF00#32, fun w => .read (w.extractLsb' 24 2) (w.extractLsb' 0 8)⟩,
  ⟨"WRITE", 0x2#4, 0x20000000#32, 0xFFFF0000#32, fun w => .write (w.extractLsb' 0 8) (w.extractLsb' 8 8)⟩,
  ⟨"SETBIT", 0x3#4, 0x30000000#32, 0xFFF0FF00#32,
    fun w => .setbit (w.extractLsb' 0 8) (w.extractLsb' 16 3) (w.extractLsb' 19 1)⟩,
  ⟨"WFIELD", 0x4#4, 0x40000000#32, 0xFFF80000#32,
    fun w => .wfield (w.extractLsb' 0 8) (w.extractLsb' 16 3) (w.extractLsb' 8 8)⟩,
  ⟨"LOADCAL", 0x5#4, 0x50000000#32, 0xFFFFFFFF#32, fun _ => .loadcal⟩,
  ⟨"COMPT", 0x6#4, 0x60000000#32, 0xFF000000#32, fun w => .compt (w.extractLsb' 0 24)⟩,
  ⟨"COMPP", 0x7#4, 0x70000000#32, 0xFF000000#32, fun w => .compp (w.extractLsb' 0 24)⟩,
  ⟨"MEAST", 0x8#4, 0x80000000#32, 0xFFFFFFFF#32, fun _ => .meast⟩,
  ⟨"MEASP", 0x9#4, 0x90000000#32, 0xFFFFFFFF#32, fun _ => .measp⟩,
  ⟨"SETOSR", 0xA#4, 0xA0000000#32, 0xFFFFFFC0#32, fun w => .setosr (w.extractLsb' 3 3) (w.extractLsb' 0 3)⟩,
  ⟨"GETOSR", 0xB#4, 0xB0000000#32, 0xFFFFFFFF#32, fun _ => .getosr⟩,
  ⟨"SETIIR", 0xC#4, 0xC0000000#32, 0xFFFFFFF8#32, fun w => .setiir (w.extractLsb' 0 3)⟩,
  ⟨"GETIIR", 0xD#4, 0xD0000000#32, 0xFFFFFFFF#32, fun _ => .getiir⟩,
  ⟨"SETODR", 0xE#4, 0xE0000000#32, 0xFFFFFFE0#32, fun w => .setodr (w.extractLsb' 0 5)⟩,
  ⟨"GETODR", 0xF#4, 0xF0000000#32, 0xFFFFFFFF#32, fun _ => .getodr⟩]

/-- OPC, bits 31..28 of every format (spec/30_encoding.md R110). -/
def opcodeField (w : Word) : BitVec 4 := w.extractLsb' 28 4

/-- A word spells the command of a row exactly when `w & mask = match` (spec/30_encoding.md R113). -/
def OpcodeRow.spells (r : OpcodeRow) (w : Word) : Bool := w &&& r.mask == r.value

/-- `decode(w)` of spec/30_encoding.md R117: the row with this OPC, then the check of its reserved
bits, then its fields. -/
def decode (w : Word) : Except DecodeError Instr :=
  match opcodeMap.find? (fun r => r.opc == opcodeField w) with
  | none => .error .reservedOpcode
  | some r => if r.spells w then .ok (r.build w) else .error (.reservedBit r.mnemonic)

/-- The word of a command, its format's pattern of spec/30_encoding.md R112 written most significant
bit first. -/
def encode : Instr → Word
  | .read w reg => 0x1#4 ++ 0#2 ++ w ++ 0#16 ++ reg
  | .write reg val => 0x2#4 ++ 0#12 ++ val ++ reg
  | .setbit reg bit on => 0x3#4 ++ 0#8 ++ on ++ bit ++ 0#8 ++ reg
  | .wfield reg sh val => 0x4#4 ++ 0#9 ++ sh ++ val ++ reg
  | .loadcal => 0x5#4 ++ 0#28
  | .compt raw => 0x6#4 ++ 0#4 ++ raw
  | .compp raw => 0x7#4 ++ 0#4 ++ raw
  | .meast => 0x8#4 ++ 0#28
  | .measp => 0x9#4 ++ 0#28
  | .setosr osrt osrp => 0xA#4 ++ 0#22 ++ osrt ++ osrp
  | .getosr => 0xB#4 ++ 0#28
  | .setiir iir => 0xC#4 ++ 0#25 ++ iir
  | .getiir => 0xD#4 ++ 0#28
  | .setodr odr => 0xE#4 ++ 0#23 ++ odr
  | .getodr => 0xF#4 ++ 0#28

/-- The command the decoder reads from a command of `nbits` bits `w`, the bits above them zero.
There is one length, 32 bits, written in one host write (spec/30_encoding.md R110), and the CMD port
has no byte order of its own (spec/20_memory.md R89). -/
def decodeTableWord (nbits w : Nat) : Option Instr :=
  match decode (BitVec.ofNat 32 (w % 2 ^ nbits)) with
  | .ok i => some i
  | .error _ => none

end Sys2Proof
end

