-- ==== Sys2Proof/Config.lean ====
section
/-! DEFINITION. What an implementation of the BCE fixes and the spec leaves open. -/

namespace Sys2Proof

/-- `DEV_ADDR`, the 7-bit bus address of the sensor device: an OPEN parameter, fixed for the life of
the block (spec/00_scope.md R8, spec/92_eei_decisions.md D2, spec/93_implementation_defined.md I1).
It has no body, so no proof can see its value (log entry 1; DESIGN CHOICE, safe). -/
opaque Config.devAddr : BusAddr

end Sys2Proof
end

