-- ==== Sys2Proof/Machine/State.lean ====
section
/-! DEFINITION. The state of the block and of what the model keeps of its surroundings, as plain data
(spec/10_state.md R31, R56; INVENTORY.md lists every piece), the outcomes' reasons, and the state
after reset (spec/70_reset_and_hazards.md R331). -/

namespace Sys2Proof.Machine

/-- The error codes of spec/60_exceptions.md R291. Codes 9..15 are never written (spec/10_state.md
R44), so they have no name here (log entry 16). -/
inductive ErrCode where
  | none
  | shortRead
  | noAck
  | calIncomplete
  | measurement
  | configuration
  | notCalibrated
  | noTemperature
  | illegalCommand
deriving DecidableEq, Repr

/-- The stored fields of STATUS (spec/10_state.md R37); its reserved bits hold no state. -/
structure Status where
  busy : Bool
  done : Bool
  calValid : Bool
  tValid : Bool
  ovr : Bool
  err : ErrCode
  calOk : BitVec 4
deriving DecidableEq, Repr

/-- The local variables of a command in progress, which live only inside its SEQ position (log entry 5):
`v` of MemRead (spec/40_register_access.md R140), and the raw sample that MEAST and MEASP keep while
SetBitRMW runs (spec/42_compensation.md R222, R223). -/
structure Locals where
  v : BitVec 32
  sample : BitVec 24
deriving DecidableEq, Repr

/-- Positions inside MemRead (spec/40_register_access.md R140): the next bus primitive to issue.
`byte i` is the BusRead of byte `i`. -/
inductive ReadPos where
  | start
  | reg
  | stop
  | request
  | byte (i : Nat)
deriving DecidableEq, Repr

/-- Positions inside MemWrite (spec/40_register_access.md R142): the next bus primitive to issue. -/
inductive WritePos where
  | start
  | reg
  | val
  | stop
deriving DecidableEq, Repr

/-- SEQ, the position inside the pseudocode of the command in CMDLAT (spec/10_state.md R34): the next
bus primitive or the finish to perform. -/
inductive Seq where
  /-- IDLE: no command is executing. -/
  | idle
  /-- The first statement of the command's rule; nothing has been issued. -/
  | start
  /-- Inside the command's MemRead (its first one, where it has two). -/
  | read (p : ReadPos) (l : Locals)
  /-- Inside the MemRead of the SetBitRMW that MEAST and MEASP end with. -/
  | flagRead (p : ReadPos) (l : Locals)
  /-- Inside LOADCAL's MemRead of cell `k` (spec/41_calibration.md R182). -/
  | cell (k : Fin 14) (p : ReadPos) (l : Locals)
  /-- Between LOADCAL's MemRead of cell `k`, which returned `r` (the value, or none where it failed), and
  the next bus primitive, or the finish where `k` is the last cell. What R182 does with `r` is part of
  that next BCE step (spec/10_state.md R55). -/
  | afterCell (k : Fin 14) (r : Option (BitVec 32))
  /-- Inside the command's MemWrite. -/
  | write (p : WritePos) (l : Locals)
  /-- At the statements after the last bus primitive, which end the command. -/
  | finish (l : Locals)
  /-- At the `raise` of the command's failed MemRead. -/
  | raise
deriving DecidableEq, Repr

/-- One event of the bus trace (spec/00_scope.md R14): a bus primitive with what it carried and what
the transport answered. -/
inductive BusEvent where
  | busBegin (a : BitVec 7)
  | busWrite (b : BitVec 8)
  | busEnd
  | busRequest (a : BitVec 7) (n : Nat) (avail : BitVec 8)
  | busRead (b : BitVec 8)
deriving DecidableEq, Repr

/-- One host access to the CSR port: an 8-bit byte offset and, for a write, 32 bits
(spec/20_memory.md R81). -/
inductive HostAct where
  | write (off : BitVec 8) (data : BitVec 32)
  | read (off : BitVec 8)
deriving DecidableEq, Repr

/-- One entry of the block's surroundings (spec/00_scope.md R7, Table HOST; log entry 3). -/
inductive Input where
  /-- A host step. -/
  | host (a : HostAct)
  /-- The reset event (spec/70_reset_and_hazards.md R330). -/
  | reset
  /-- A turn of the BCE. Where its step is a bus primitive the transport completes it, and `answer`
  is the transport's draw: the count of `BusRequest`, the byte of `BusRead`, ignored by the rest. -/
  | bce (answer : BitVec 8)
deriving DecidableEq, Repr

/-- The complete state: the elements of spec/10_state.md R31, then three fields of the model's own. The
block has no memory (spec/20_memory.md R80; log entry 12). -/
structure State where
  /-- CMDLAT (spec/10_state.md R33). -/
  cmdlat : BitVec 32
  /-- SEQ (R34). -/
  seq : Seq
  /-- STATUS (R37). -/
  status : Status
  /-- RESULT (R46). -/
  result : BitVec 64
  /-- TEMP (R43). -/
  temp : BitVec 32
  /-- CAL[0..13] (R47), each the decoded value in 16 bits (log entry 7). -/
  cal : Vector (BitVec 16) 14
  /-- STAGE[0..13] (R53); between commands the model keeps it (log entry 17). -/
  stage : Vector (BitVec 16) 14
  /-- STAGE_OK (R53); between commands the model keeps it (log entry 17). -/
  stageOk : BitVec 4
  /-- The model's own: what the surroundings do next, in order (log entry 3). -/
  inputs : List Input
  /-- The model's own: the bus primitives issued so far, oldest first (log entry 10). -/
  bus : List BusEvent
  /-- The model's own: each host read so far with the value it returned, oldest first (log entry 10). -/
  hostLog : List (BitVec 8 × BitVec 32)
deriving DecidableEq, Repr

/-- The reasons a step stops. The spec gives the block none (spec/60_exceptions.md R290). -/
inductive Fault where
  /-- Raised by a meaning when SEQ holds a position that is not one of its command. No run reaches it
  (log entry 9). Safe: the model stops where the spec says nothing. -/
  | offProgram
deriving DecidableEq, Repr

/-- The reasons a step has no meaning. -/
inductive Refusal where
  /-- An arm of exec without a meaning yet. No arm of this model answers it. Safe. -/
  | notModelled (mnemonic : String)
deriving DecidableEq, Repr

/-- The outcome of one step. -/
abbrev Outcome := Host.Outcome State Fault Refusal

/-- STATUS after reset: 0x00000000 (spec/70_reset_and_hazards.md R331). -/
def Status.reset : Status where
  busy := false
  done := false
  calValid := false
  tValid := false
  ovr := false
  err := .none
  calOk := 0

/-- The state right after reset (spec/70_reset_and_hazards.md R331). STAGE and STAGE_OK are
unspecified there: their zeros are a DESIGN CHOICE (log entry 2). The surroundings have done nothing
and plan nothing (log entries 3, 10 and 11). -/
def State.reset : State where
  cmdlat := 0x00000000#32
  seq := .idle
  status := Status.reset
  result := 0
  temp := 0
  cal := Vector.replicate 14 0
  stage := Vector.replicate 14 0
  stageOk := 0
  inputs := []
  bus := []
  hostLog := []

end Sys2Proof.Machine
end

