-- ==== Sys2Proof/Machine/Cells.lean ====
section
/-! DEFINITION. The 14 calibration cells (spec/41_calibration.md R180, R181), and what is derived from
them: the coefficients' mantissas and exponents (R184 to R186) and their CSR views (spec/10_state.md R47, R48). -/

namespace Sys2Proof.Machine

/-- The type of a calibration cell (spec/41_calibration.md R180). -/
inductive CellType where
  | u16
  | s16
  | s8
deriving DecidableEq, Repr

/-- One row of the cell table (spec/41_calibration.md R180). -/
structure Cell where
  addr : BitVec 8
  width : Nat
  type : CellType
deriving DecidableEq, Repr

/-- The cell table of spec/41_calibration.md R180, in the order of CAL: T1, T2, T3, P1 .. P11 (P9 is
s16, spec/90_conflicts.md C2). -/
def cellTable : Vector Cell 14 := #v[
  ⟨0x31, 2, .u16⟩, ⟨0x33, 2, .u16⟩, ⟨0x35, 1, .s8⟩,
  ⟨0x36, 2, .s16⟩, ⟨0x38, 2, .s16⟩, ⟨0x3A, 1, .s8⟩, ⟨0x3B, 1, .s8⟩,
  ⟨0x3C, 2, .u16⟩, ⟨0x3E, 2, .u16⟩, ⟨0x40, 1, .s8⟩, ⟨0x41, 1, .s8⟩,
  ⟨0x42, 2, .s16⟩, ⟨0x44, 1, .s8⟩, ⟨0x45, 1, .s8⟩]

/-- Row `k` of the cell table. -/
def cellRow (k : Fin 14) : Cell := cellTable[k]

/-- `decode(TYPE, v)` of spec/41_calibration.md R181, as the 16-bit pattern an element of STAGE or CAL
holds (log entry 7). -/
def decodeCell (ty : CellType) (v : BitVec 32) : CellWord :=
  match ty with
  | .u16 => v.setWidth 16
  | .s16 => v.setWidth 16
  | .s8 => (v.setWidth 8).signExtend 16

/-- The number an element of CAL stands for, in its cell's type (spec/10_state.md R47). -/
def cellInt (ty : CellType) (c : CellWord) : Int :=
  match ty with
  | .u16 => c.toNat
  | .s16 => c.toInt
  | .s8 => c.toInt

/-- The values a cell's type allows (spec/41_calibration.md R181): an s8 element lies in -128 .. 127. -/
def cellInRange (ty : CellType) (c : CellWord) : Bool :=
  match ty with
  | .u16 => true
  | .s16 => true
  | .s8 => decide (-128 ≤ c.toInt) && decide (c.toInt ≤ 127)

/-- Every element holds a value of its cell's type (spec/10_state.md R47). -/
def calInRange (cal : Vector CellWord 14) : Bool :=
  (List.finRange 14).all fun k => cellInRange (cellRow k).type cal[k]

/-- The CSR view CAL_k: zero-extended for an unsigned cell, sign-extended for a signed one
(spec/10_state.md R47). -/
def calView (cal : Vector CellWord 14) (k : Fin 14) : Word :=
  match (cellRow k).type with
  | .u16 => cal[k].setWidth 32
  | .s16 => cal[k].signExtend 32
  | .s8 => cal[k].signExtend 32

/-- The mantissa m_k of coefficient k (spec/41_calibration.md R184): the cell's value, less 2^14 for p1
and p2 (k = 3, 4; R185). -/
def mantissa (cal : Vector CellWord 14) (k : Fin 14) : Int :=
  if k = 3 ∨ k = 4 then cellInt (cellRow k).type cal[k] - 16384 else cellInt (cellRow k).type cal[k]

/-- The fixed exponents E_k of spec/41_calibration.md R184; p9 and p10 share -48, and t1 and p5 are
positive (R185). -/
def exponent (k : Fin 14) : Int :=
  (#v[8, -30, -48, -20, -29, -32, -37, 3, -6, -8, -15, -48, -48, -65] : Vector Int 14)[k]

/-- The CSR view COEF_k: m_k as an s32 pattern (spec/10_state.md R48). -/
def coefView (cal : Vector CellWord 14) (k : Fin 14) : Word := BitVec.ofInt 32 (mantissa cal k)

end Sys2Proof.Machine
end

