-- ==== Sys2Proof/Machine/Flags.lean ====
section
/-! DEFINITION. The numeric error codes and the STATUS word (spec/60_exceptions.md R291,
spec/10_state.md R37). -/

namespace Sys2Proof.Machine

/-- The code of an error in STATUS.ERR (spec/60_exceptions.md R291). -/
def ErrCode.code : ErrCode → BitVec 4
  | .none => 0
  | .shortRead => 1
  | .noAck => 2
  | .calIncomplete => 3
  | .measurement => 4
  | .configuration => 5
  | .notCalibrated => 6
  | .noTemperature => 7
  | .illegalCommand => 8

/-- STATUS as the host reads it: the layout of spec/10_state.md R37, most significant field first,
with the reserved fields 31:20, 15:12 and 7:5 reading 0. -/
def Status.word (st : Status) : Word :=
  0#12 ++ st.calOk ++ 0#4 ++ st.err.code ++ 0#3 ++ BitVec.ofBool st.ovr ++ BitVec.ofBool st.tValid ++
    BitVec.ofBool st.calValid ++ BitVec.ofBool st.done ++ BitVec.ofBool st.busy

end Sys2Proof.Machine
end

