-- ==== Sys2Proof/Machine/Operands.lean ====
section
/-! DEFINITION. Operand forms: the device register map, the little-endian assembly of read bytes, the
values the read-modify-write sequences write, the packing and unpacking of configuration fields, and
the labels of their codes. -/

namespace Sys2Proof.Machine

/-! ### The device register map (spec/20_memory.md R82) -/

/-- Pressure raw sample, 3 bytes (spec/20_memory.md R82, R87). -/
def regPressRaw : Byte := 0x04
/-- Temperature raw sample, 3 bytes (R82, R87). -/
def regTempRaw : Byte := 0x07
/-- Power control (R82, R83). -/
def regPowerControl : Byte := 0x1B
/-- Oversampling (R82, R84). -/
def regOversampling : Byte := 0x1C
/-- Output data rate (R82, R86). -/
def regOdr : Byte := 0x1D
/-- IIR filter configuration (R82, R85). -/
def regIir : Byte := 0x1F

/-- Power control bit 0, "press enable", the pressure measurement-started flag (R83). -/
def pressEnableBit : BitVec 3 := 0
/-- Power control bit 1, "temp enable", the temperature measurement-started flag (R83). -/
def tempEnableBit : BitVec 3 := 1
/-- The "sensor enable" bits 4 and 5 of power control (R83). -/
def sensorEnableBits : List (BitVec 3) := [4, 5]

/-! ### Reads -/

/-- READ's byte count `n = W + 1` (spec/30_encoding.md R116). -/
def readCount (w : BitVec 2) : Nat := w.toNat + 1

/-- `v | (zext(b) << (8*i))`: byte `i` joins a little-endian read (spec/40_register_access.md R140,
spec/20_memory.md R88). -/
def assembleByte (v : BitVec 32) (i : Nat) (b : Byte) : BitVec 32 := v ||| (b.setWidth 32 <<< (8 * i))

/-- The value of a 1-byte read. -/
def Locals.byte (l : Locals) : Byte := l.v.setWidth 8

/-- The value of a 3-byte read, a u24 (spec/20_memory.md R87). -/
def Locals.raw (l : Locals) : Raw := l.v.setWidth 24

/-- The local variables at a command's first statement. -/
def Locals.init : Locals where
  v := 0
  sample := 0

/-! ### Read-modify-write values -/

/-- `new[7:0]` of SetBitRMW: `old | (on << pos)`, which never clears a bit
(spec/40_register_access.md R143, spec/90_conflicts.md C3). -/
def setBitValue (old : Byte) (pos : BitVec 3) (on : BitVec 1) : Byte := old ||| (on.setWidth 8 <<< pos.toNat)

/-- `new` of FieldRMW: `(old | (val << sh))[7:0]`, bits shifted above bit 7 lost and no bit masked out
(spec/40_register_access.md R144). -/
def fieldValue (old : Byte) (sh : BitVec 3) (val : Byte) : Byte := old ||| (val <<< sh.toNat)

/-! ### Configuration fields (spec/43_configuration.md R260) -/

/-- `(OSRT << 3) | OSRP` as a byte (R264). -/
def packOsr (osrt osrp : BitVec 3) : Byte := (osrt.setWidth 8 <<< 3) ||| osrp.setWidth 8

/-- GETOSR's RESULT: `zext_64((b[5:0] << 8) | b)` (R265). -/
def osrResult (b : Byte) : BitVec 64 := ((b.extractLsb' 0 6).setWidth 64 <<< 8) ||| b.setWidth 64

/-- GETIIR's RESULT: `zext_64((b[3:1] << 8) | b)` (R267). -/
def iirResult (b : Byte) : BitVec 64 := ((b.extractLsb' 1 3).setWidth 64 <<< 8) ||| b.setWidth 64

/-- GETODR's RESULT: `zext_64((b[4:0] << 8) | b)` (R269). -/
def odrResult (b : Byte) : BitVec 64 := ((b.extractLsb' 0 5).setWidth 64 <<< 8) ||| b.setWidth 64

/-! ### Labels of the configuration codes. No command depends on them (spec/43_configuration.md R261 to
R263; log entry 14). -/

/-- The oversampling factor `2^code` of codes 0..5; codes 6 and 7 name no enumerator (R261). -/
def osrFactor (code : BitVec 3) : Option Nat := if code.toNat ≤ 5 then some (2 ^ code.toNat) else none

/-- The IIR filter coefficient of a code, 0 standing for "bypass"; code 7 keeps DOC's label 111
(R262, spec/91_not_in_source.md N11). -/
def iirCoefficient (code : BitVec 3) : Nat := if code.toNat = 7 then 111 else 2 ^ code.toNat - 1

/-- The nominal rate of an output data rate code in Hz as a fraction, `200 / 2^code`, for codes 0..17;
codes 18..31 name no enumerator (R263). -/
def odrNominalRate (code : BitVec 5) : Option (Nat × Nat) :=
  if code.toNat ≤ 17 then some (200, 2 ^ code.toNat) else none

end Sys2Proof.Machine
end

