-- ==== Sys2Proof/Machine/Ops.lean ====
section
/-! DEFINITION. The operations every command is built from: one bus primitive, the completion of a
command and the raising of an error, the register access sequences MemRead, MemWrite, SetBitRMW and
FieldRMW, command acceptance and the reset event. -/

namespace Sys2Proof.Machine

/-! ### Turns and answers (log entries 3 and 4) -/

/-- The inputs after the BCE has taken its turn. Where no turn of the BCE stands first it goes on by
itself and takes none. -/
def afterTurn : List Input → List Input
  | .bce _ :: rest => rest
  | .host a :: rest => .host a :: rest
  | .reset :: rest => .reset :: rest
  | [] => []

/-- The transport's draw for the bus primitive of this step; none where the transport does not
complete it. -/
def firstAnswer : List Input → Option Byte
  | .bce d :: _ => some d
  | .host _ :: _ => none
  | .reset :: _ => none
  | [] => none

/-- The BCE takes its turn. -/
def State.takeTurn (s : State) : State := { s with inputs := afterTurn s.inputs }

/-- An event joins the bus trace. -/
def State.emit (s : State) (e : BusEvent) : State := { s with bus := s.bus ++ [e] }

/-- SEQ moves to a position. -/
def State.goto (s : State) (q : Seq) : State := { s with seq := q }

/-- One bus primitive is one BCE step and one event of the trace (spec/00_scope.md R14). It waits for
the transport: without an answer nothing changes (spec/70_reset_and_hazards.md R341). -/
def issue (ev : Byte → BusEvent) (k : Byte → State → State) (s : State) : Outcome :=
  match firstAnswer s.inputs with
  | none => .next s
  | some d => .next (k d (s.takeTurn.emit (ev d)))

/-! ### Ending a command -/

/-- The writes of a command to block state, buffered until its finish (spec/00_scope.md R13; log
entry 8). -/
structure Writes where
  result : Option (BitVec 64) := none
  temp : Option (BitVec 32) := none
  tValid : Option Bool := none
  calValid : Option Bool := none
  calOk : Option (BitVec 4) := none
  cal : Option (Vector (BitVec 16) 14) := none
deriving DecidableEq, Repr

/-- The buffered writes become visible together (spec/00_scope.md R13, spec/10_state.md R36). -/
def State.commit (s : State) (w : Writes) : State :=
  { s with
    result := w.result.getD s.result
    temp := w.temp.getD s.temp
    cal := w.cal.getD s.cal
    status := { s.status with
      tValid := w.tValid.getD s.status.tValid
      calValid := w.calValid.getD s.status.calValid
      calOk := w.calOk.getD s.status.calOk } }

/-- `ERR <- code; BUSY <- 0; DONE <- 1; SEQ <- IDLE` (spec/10_state.md R36). STAGE and STAGE_OK keep what
they hold: the spec leaves them open between commands (R53), and keeping them is a DESIGN CHOICE (log entry
17). -/
def State.complete (s : State) (c : ErrCode) : State :=
  { s with seq := .idle, status := { s.status with err := c, busy := false, done := true } }

/-- `finish(code)`: one BCE step (spec/10_state.md R36, spec/00_scope.md R16). It needs no answer of the
transport. -/
def finish (c : ErrCode) (w : Writes) (s : State) : Outcome := .next ((s.takeTurn.commit w).complete c)

/-- `raise E` is `finish(E)` for an error E (spec/00_scope.md R16): the block's whole error entry, with
no state saved, no mode and no vector (spec/60_exceptions.md R302), and nothing to return from (R303). -/
def raiseError (c : ErrCode) (w : Writes) (s : State) : Outcome := finish c w s

/-- A word that spells no command: `raise ILLEGAL_COMMAND`, with no bus primitive and no other change
(spec/30_encoding.md R117, spec/60_exceptions.md R299). -/
def illegalCommand (s : State) : Outcome := raiseError .illegalCommand {} s

/-! ### Register access sequences (spec/40_register_access.md) -/

/-- `MemRead(reg, n)` at position `p` (R140, R141). `at'` is where this read stands in the command,
`ok` what follows `return Ok(v)` and `short` what follows `return Fail(ShortRead)`. -/
def memRead (at' : ReadPos → Locals → Seq) (reg : Byte) (n : Nat) (ok : Locals → State → State)
    (short : Locals → State → State) (p : ReadPos) (l : Locals) (s : State) : Outcome :=
  match p with
  | .start => issue (fun _ => .busBegin Config.devAddr) (fun _ t => t.goto (at' .reg l)) s
  | .reg => issue (fun _ => .busWrite reg) (fun _ t => t.goto (at' .stop l)) s
  | .stop => issue (fun _ => .busEnd) (fun _ t => t.goto (at' .request l)) s
  | .request =>
    issue (fun avail => .busRequest Config.devAddr n avail)
      (fun avail t =>
        if avail.toNat < n then short l t else t.goto (at' (.byte 0) { l with v := 0 })) s
  | .byte i =>
    issue (fun b => .busRead b)
      (fun b t =>
        let l' : Locals := { l with v := assembleByte l.v i b }
        if i + 1 < n then t.goto (at' (.byte (i + 1)) l') else ok l' t) s

/-- `MemWrite(reg, v)` at position `p` (R142); `next` is where the command goes on. -/
def memWrite (reg v : Byte) (next : Locals → Seq) (p : WritePos) (l : Locals) (s : State) : Outcome :=
  match p with
  | .start => issue (fun _ => .busBegin Config.devAddr) (fun _ t => t.goto (.write .reg l)) s
  | .reg => issue (fun _ => .busWrite reg) (fun _ t => t.goto (.write .val l)) s
  | .val => issue (fun _ => .busWrite v) (fun _ t => t.goto (.write .stop l)) s
  | .stop => issue (fun _ => .busEnd) (fun _ t => t.goto (next l)) s

/-- The read of a read-modify-write: one byte of `reg`, then the write-back, or `onFail` and no write
(R143, R144). -/
def rmwRead (at' : ReadPos → Locals → Seq) (reg : Byte) (onFail : Locals → Seq) (p : ReadPos) (l : Locals)
    (s : State) : Outcome :=
  memRead at' reg 1 (fun l' t => t.goto (.write .start l')) (fun l' t => t.goto (onFail l')) p l s

/-- The write-back of SetBitRMW(reg, pos, on), then the command's end (R143). -/
def setBitWrite (reg : Byte) (pos : BitVec 3) (on : BitVec 1) (p : WritePos) (l : Locals) (s : State) :
    Outcome :=
  memWrite reg (setBitValue l.byte pos on) .finish p l s

/-- The write-back of FieldRMW(reg, sh, val), then the command's end (R144). -/
def fieldWrite (reg : Byte) (sh : BitVec 3) (val : Byte) (p : WritePos) (l : Locals) (s : State) : Outcome :=
  memWrite reg (fieldValue l.byte sh val) .finish p l s

/-- A command that is one FieldRMW and reports a failed read as `err`: WFIELD, SETOSR, SETIIR, SETODR
(R144, R148; spec/43_configuration.md R264, R266, R268). -/
def fieldCommand (reg : Byte) (sh : BitVec 3) (val : Byte) (err : ErrCode) (s : State) : Outcome :=
  match s.seq with
  | .start => rmwRead .read reg (fun _ => .raise) .start Locals.init s
  | .read p l => rmwRead .read reg (fun _ => .raise) p l s
  | .write p l => fieldWrite reg sh val p l s
  | .finish _ => finish .none {} s
  | .raise => raiseError err {} s
  | .idle => .fault .offProgram
  | .flagRead _ _ => .fault .offProgram
  | .cell _ _ _ => .fault .offProgram
  | .afterCell _ _ => .fault .offProgram

/-- A command that is one MemRead and returns a value in RESULT: READ, GETOSR, GETIIR, GETODR (R145;
spec/43_configuration.md R265, R267, R269). -/
def readCommand (reg : Byte) (n : Nat) (value : Locals → BitVec 64) (err : ErrCode) (s : State) : Outcome :=
  let body := memRead .read reg n (fun l t => t.goto (.finish l)) (fun _ t => t.goto .raise)
  match s.seq with
  | .start => body .start Locals.init s
  | .read p l => body p l s
  | .finish l => finish .none { result := some (value l) } s
  | .raise => raiseError err {} s
  | .idle => .fault .offProgram
  | .flagRead _ _ => .fault .offProgram
  | .cell _ _ _ => .fault .offProgram
  | .afterCell _ _ => .fault .offProgram
  | .write _ _ => .fault .offProgram

/-! ### Acceptance and reset -/

/-- Command acceptance (spec/10_state.md R35): `CMDLAT <- w; SEQ <- start; BUSY <- 1; DONE <- 0`. -/
def State.accept (s : State) (w : Word) : State :=
  { s with cmdlat := w, seq := .start, status := { s.status with busy := true, done := false } }

/-- The reset event (spec/70_reset_and_hazards.md R330): the executing command is abandoned with its
buffered writes, every element of the block's state takes its reset value, and no bus primitive is
issued. The surroundings are not the block's and stay as they are. -/
def State.assertReset (s : State) : State :=
  { State.reset with inputs := s.inputs, bus := s.bus, hostLog := s.hostLog }

end Sys2Proof.Machine
end

