-- ==== Sys2Proof/Machine/Calibration.lean ====
section
/-! DEFINITION. LOADCAL (spec/41_calibration.md R182, R183), one BCE step at a time. -/

namespace Sys2Proof.Machine

/-- `STAGE_OK <- 0` (R182). -/
def State.clearStageOk (s : State) : State := { s with stageOk := 0 }

/-- `STAGE[k] <- decode(TYPE[k], v); STAGE_OK <- STAGE_OK + 1` (R182). -/
def State.stageCell (s : State) (k : Fin 14) (v : BitVec 32) : State :=
  { s with stage := s.stage.set k (decodeCell (cellRow k).type v), stageOk := s.stageOk + 1 }

/-- What R182 does with the outcome `r` of the MemRead of cell `k`: a value is staged and counted, a
failure leaves STAGE and STAGE_OK. -/
def State.stageResult (s : State) (k : Fin 14) (r : Option (BitVec 32)) : State :=
  match r with
  | some v => s.stageCell k v
  | none => s

/-- LOADCAL's MemRead of cell `k`. A failed read is not retried and does not end the loop (R182). Its
outcome waits in SEQ for the next BCE step (spec/10_state.md R55). -/
def cellRead (k : Fin 14) (p : ReadPos) (l : Locals) (s : State) : Outcome :=
  memRead (.cell k) (cellRow k).addr (cellRow k).width
    (fun l' t => t.goto (.afterCell k (some l'.v)))
    (fun _ t => t.goto (.afterCell k none)) p l s

/-- The end of LOADCAL: the statements after the loop (R182), with all or nothing for CAL (R183). -/
def loadcalEnd (s : State) : Outcome :=
  if s.stageOk = 14 then
    finish .none
      { calOk := some s.stageOk, tValid := some false, cal := some s.stage, calValid := some true } s
  else
    raiseError .calIncomplete
      { calOk := some s.stageOk, tValid := some false, calValid := some false } s

/-- The BCE step after the MemRead of cell `k`: the staging of its outcome belongs to this step
(spec/10_state.md R55), which is the first bus primitive of the next cell in table order, or the end of the
loop (R182). -/
def nextCell (k : Fin 14) (r : Option (BitVec 32)) (s : State) : Outcome :=
  if h : k.val + 1 < 14 then
    issue (fun _ => .busBegin Config.devAddr)
      (fun _ t => (t.stageResult k r).goto (.cell ⟨k.val + 1, h⟩ .reg Locals.init)) s
  else loadcalEnd (s.stageResult k r)

/-- LOADCAL (R182). STAGE_OK is cleared with the step that issues the first bus primitive (spec/10_state.md
R55), so a stalled first step leaves the state as it is. -/
def execLoadcal (s : State) : Outcome :=
  match s.seq with
  | .start =>
    issue (fun _ => .busBegin Config.devAddr)
      (fun _ t => t.clearStageOk.goto (.cell 0 .reg Locals.init)) s
  | .cell k p l => cellRead k p l s
  | .afterCell k r => nextCell k r s
  | .idle => .fault .offProgram
  | .read _ _ => .fault .offProgram
  | .flagRead _ _ => .fault .offProgram
  | .write _ _ => .fault .offProgram
  | .finish _ => .fault .offProgram
  | .raise => .fault .offProgram

end Sys2Proof.Machine
end

