-- ==== Sys2Proof/Machine/Datapath.lean ====
section
/-! DEFINITION. The fixed-point datapath of the PCE on unbounded integers (spec/00_scope.md R11, R12;
spec/42_compensation.md R213, R215), stage by stage, and the ideal formulas it evaluates (R210, R211). -/

namespace Sys2Proof.Machine

/-- `rnd(N, s) = (N + 2^(s-1)) >>> s`, the floor of the shifted value: nearest, a tie toward plus
infinity (spec/00_scope.md R12; R11 for `>>>`). -/
def rnd (n : Int) (s : Nat) : Int := (n + 2 ^ (s - 1)) / 2 ^ s

/-! ### Temperature (spec/42_compensation.md R213) -/

/-- TS1: `d1 = raw - (m_t1 << 8)`. -/
def tempD1 (cal : Vector CellWord 14) (raw : Raw) : Int := raw.toNat - shl (mantissa cal 0) 8

/-- TS2: `acc = (d1 * m_t2) << 18`. -/
def tempAcc (cal : Vector CellWord 14) (raw : Raw) : Int := shl (tempD1 cal raw * mantissa cal 1) 18

/-- TS3: `sq = d1 * d1`. -/
def tempSq (cal : Vector CellWord 14) (raw : Raw) : Int := tempD1 cal raw * tempD1 cal raw

/-- TS4: `N_T = acc + sq * m_t3`. -/
def tempN (cal : Vector CellWord 14) (raw : Raw) : Int := tempAcc cal raw + tempSq cal raw * mantissa cal 2

/-- TS5, `TempComp(raw)`: `tq = rnd(N_T, 28)`, in Q11.20. -/
def tempComp (cal : Vector CellWord 14) (raw : Raw) : Int := rnd (tempN cal raw) 28

/-! ### Pressure (spec/42_compensation.md R215) -/

/-- PS1: `t2 = t * t`. -/
def pressT2 (t : Int) : Int := t * t

/-- PS2: `t3 = t2 * t`. -/
def pressT3 (t : Int) : Int := pressT2 t * t

/-- PS3: `O`, po1 at scale 2^-75. -/
def pressO (cal : Vector CellWord 14) (t : Int) : Int :=
  shl (mantissa cal 7) 78 + shl (mantissa cal 8 * t) 49 + shl (mantissa cal 9 * pressT2 t) 27 +
    mantissa cal 10 * pressT3 t

/-- PS4: `S`, the bracket of po2 at scale 2^-97. -/
def pressS (cal : Vector CellWord 14) (t : Int) : Int :=
  shl (mantissa cal 3) 77 + shl (mantissa cal 4 * t) 48 + shl (mantissa cal 5 * pressT2 t) 25 +
    mantissa cal 6 * pressT3 t

/-- PS5: `u2 = up * up`. -/
def pressU2 (up : Raw) : Int := (up.toNat : Int) * up.toNat

/-- PS5: `u3 = u2 * up`. -/
def pressU3 (up : Raw) : Int := pressU2 up * up.toNat

/-- PS6: `K = (m_p9 << 20) + m_p10 * t`. -/
def pressK (cal : Vector CellWord 14) (t : Int) : Int := shl (mantissa cal 11) 20 + mantissa cal 12 * t

/-- PS6: `Q = u2 * K + ((u3 * m_p11) << 3)`, po3 at scale 2^-68. -/
def pressQ (cal : Vector CellWord 14) (up : Raw) (t : Int) : Int :=
  pressU2 up * pressK cal t + shl (pressU3 up * mantissa cal 13) 3

/-- PS7: `N_P = (O << 22) + up * S + (Q << 29)`, the pressure at scale 2^-97. -/
def pressN (cal : Vector CellWord 14) (up : Raw) (t : Int) : Int :=
  shl (pressO cal t) 22 + up.toNat * pressS cal t + shl (pressQ cal up t) 29

/-- PS8, `PressComp(up, t)`: `pq = rnd(N_P, 65)`, in Q31.32. -/
def pressComp (cal : Vector CellWord 14) (up : Raw) (t : Int) : Int := rnd (pressN cal up t) 65

/-! ### The formulas DOC gives, over the rationals -/

/-- Coefficient k as the exact number `m_k * 2^E_k` (spec/41_calibration.md R184). -/
def coefficient (cal : Vector CellWord 14) (k : Fin 14) : ℚ := mantissa cal k * (2 : ℚ) ^ exponent k

/-- `T_ideal(raw)`, in °C (spec/42_compensation.md R210). -/
def tempIdeal (cal : Vector CellWord 14) (raw : Raw) : ℚ :=
  ((raw.toNat : ℚ) - coefficient cal 0) * coefficient cal 1 +
    ((raw.toNat : ℚ) - coefficient cal 0) ^ 2 * coefficient cal 2

/-- `P_ideal(rawPress, T) = po1 + po2 + po3`, in Pa (spec/42_compensation.md R211). -/
def pressIdeal (cal : Vector CellWord 14) (up : Raw) (T : ℚ) : ℚ :=
  (coefficient cal 7 + coefficient cal 8 * T + coefficient cal 9 * T ^ 2 + coefficient cal 10 * T ^ 3) +
  (up.toNat : ℚ) *
    (coefficient cal 3 + coefficient cal 4 * T + coefficient cal 5 * T ^ 2 + coefficient cal 6 * T ^ 3) +
  ((up.toNat : ℚ) ^ 2 * (coefficient cal 11 + coefficient cal 12 * T) +
    (up.toNat : ℚ) ^ 3 * coefficient cal 13)

end Sys2Proof.Machine
end

