-- ==== Sys2Proof/Machine/Compensation.lean ====
section
/-! DEFINITION. COMPT, COMPP, MEAST and MEASP (spec/42_compensation.md R220 to R224), one BCE step at a
time. -/

namespace Sys2Proof.Machine

/-- `tq` as the s32 that TEMP holds (R212, R220). -/
def tempWord (cal : Vector CellWord 14) (raw : Raw) : BitVec 32 := BitVec.ofInt 32 (tempComp cal raw)

/-- `TEMP <- tq; T_VALID <- 1; RESULT <- sext_64(tq)` and `finish(NONE)` (R220, R222). -/
def finishTemp (raw : Raw) (s : State) : Outcome :=
  finish .none
    { temp := some (tempWord s.cal raw), tValid := some true,
      result := some ((tempWord s.cal raw).signExtend 64) } s

/-- `pq` as the s64 that RESULT holds, from the stored temperature `sext(TEMP)` (R221, R223, R224). -/
def pressWord (cal : Vector CellWord 14) (raw : Raw) (temp : BitVec 32) : BitVec 64 :=
  BitVec.ofInt 64 (pressComp cal raw temp.toInt)

/-- `RESULT <- pq` and `finish(NONE)` (R221, R223). -/
def finishPress (raw : Raw) (s : State) : Outcome :=
  finish .none { result := some (pressWord s.cal raw s.temp) } s

/-- `if CAL_VALID = 0: raise NOT_CALIBRATED` before `body` (spec/60_exceptions.md R297). -/
def whenCalibrated (body : State → Outcome) (s : State) : Outcome :=
  if s.status.calValid then body s else raiseError .notCalibrated {} s

/-- NOT_CALIBRATED, then `if T_VALID = 0: raise NO_TEMPERATURE` before `body` (spec/60_exceptions.md
R298, R301). -/
def whenTemperature (body : State → Outcome) (s : State) : Outcome :=
  whenCalibrated (fun t => if t.status.tValid then body t else raiseError .noTemperature {} t) s

/-- COMPT (R220): no bus primitive, so the whole command is its one finish step. -/
def execCompt (raw : BitVec 24) (s : State) : Outcome :=
  match s.seq with
  | .start => whenCalibrated (finishTemp raw) s
  | .idle => .fault .offProgram
  | .read _ _ => .fault .offProgram
  | .flagRead _ _ => .fault .offProgram
  | .cell _ _ _ => .fault .offProgram
  | .afterCell _ _ => .fault .offProgram
  | .write _ _ => .fault .offProgram
  | .finish _ => .fault .offProgram
  | .raise => .fault .offProgram

/-- COMPP (R221): no bus primitive, so the whole command is its one finish step. -/
def execCompp (raw : BitVec 24) (s : State) : Outcome :=
  match s.seq with
  | .start => whenTemperature (finishPress raw) s
  | .idle => .fault .offProgram
  | .read _ _ => .fault .offProgram
  | .flagRead _ _ => .fault .offProgram
  | .cell _ _ _ => .fault .offProgram
  | .afterCell _ _ => .fault .offProgram
  | .write _ _ => .fault .offProgram
  | .finish _ => .fault .offProgram
  | .raise => .fault .offProgram

/-- `MemRead(reg, 3)` of a raw sample, which is kept; MEASUREMENT where it is short (R222, R223). -/
def sampleRead (reg : Byte) (p : ReadPos) (l : Locals) (s : State) : Outcome :=
  memRead .read reg 3 (fun l' t => t.goto (.flagRead .start { l' with sample := l'.raw }))
    (fun _ t => t.goto .raise) p l s

/-- MEAST (R222): the checks, the raw read at 0x07, SetBitRMW(0x1B, 1, 1) with its outcome ignored, the
compensation and the commit. -/
def execMeast (s : State) : Outcome :=
  match s.seq with
  | .start => whenCalibrated (sampleRead regTempRaw .start Locals.init) s
  | .read p l => sampleRead regTempRaw p l s
  | .flagRead p l => rmwRead .flagRead regPowerControl .finish p l s
  | .write p l => setBitWrite regPowerControl tempEnableBit 1 p l s
  | .finish l => finishTemp l.sample s
  | .raise => raiseError .measurement {} s
  | .idle => .fault .offProgram
  | .cell _ _ _ => .fault .offProgram
  | .afterCell _ _ => .fault .offProgram

/-- MEASP (R223): the checks, the raw read at 0x04, SetBitRMW(0x1B, 0, 1) with its outcome ignored, the
compensation with the stored TEMP and the commit. -/
def execMeasp (s : State) : Outcome :=
  match s.seq with
  | .start => whenTemperature (sampleRead regPressRaw .start Locals.init) s
  | .read p l => sampleRead regPressRaw p l s
  | .flagRead p l => rmwRead .flagRead regPowerControl .finish p l s
  | .write p l => setBitWrite regPowerControl pressEnableBit 1 p l s
  | .finish l => finishPress l.sample s
  | .raise => raiseError .measurement {} s
  | .idle => .fault .offProgram
  | .cell _ _ _ => .fault .offProgram
  | .afterCell _ _ => .fault .offProgram

end Sys2Proof.Machine
end

