-- ==== Sys2Proof/Machine/Configuration.lean ====
section
/-! DEFINITION. The six configuration commands (spec/43_configuration.md R264 to R270), one BCE step at a
time. There is no range check and no masking (R270). -/

namespace Sys2Proof.Machine

/-- SETOSR: `FieldRMW(0x1C, 0, (OSRT << 3) | OSRP)` (R264). -/
def execSetosr (osrt osrp : BitVec 3) (s : State) : Outcome :=
  fieldCommand regOversampling 0 (packOsr osrt osrp) .configuration s

/-- GETOSR: `MemRead(0x1C, 1)` (R265). -/
def execGetosr (s : State) : Outcome :=
  readCommand regOversampling 1 (fun l => osrResult l.byte) .configuration s

/-- SETIIR: `FieldRMW(0x1F, 1, IIR)` (R266). -/
def execSetiir (iir : BitVec 3) (s : State) : Outcome :=
  fieldCommand regIir 1 (iir.setWidth 8) .configuration s

/-- GETIIR: `MemRead(0x1F, 1)` (R267). -/
def execGetiir (s : State) : Outcome :=
  readCommand regIir 1 (fun l => iirResult l.byte) .configuration s

/-- SETODR: `FieldRMW(0x1D, 0, ODR)` (R268). -/
def execSetodr (odr : BitVec 5) (s : State) : Outcome :=
  fieldCommand regOdr 0 (odr.setWidth 8) .configuration s

/-- GETODR: `MemRead(0x1D, 1)` (R269). -/
def execGetodr (s : State) : Outcome :=
  readCommand regOdr 1 (fun l => odrResult l.byte) .configuration s

end Sys2Proof.Machine
end

