-- ==== Sys2Proof/Machine/RegisterAccess.lean ====
section
/-! DEFINITION. READ, WRITE, SETBIT and WFIELD (spec/40_register_access.md R145 to R148): each definition
is ONE BCE step of the command, at the position that SEQ holds. -/

namespace Sys2Proof.Machine

/-- READ: `n = W + 1` bytes into RESULT, zero-extended; SHORT_READ where avail < n (R145). -/
def execRead (w : BitVec 2) (reg : BitVec 8) (s : State) : Outcome :=
  readCommand reg (readCount w) (fun l => l.v.setWidth 64) .shortRead s

/-- WRITE: one MemWrite, which cannot fail (R146). -/
def execWrite (reg val : BitVec 8) (s : State) : Outcome :=
  match s.seq with
  | .start => memWrite reg val .finish .start Locals.init s
  | .write p l => memWrite reg val .finish p l s
  | .finish _ => finish .none {} s
  | .idle => .fault .offProgram
  | .read _ _ => .fault .offProgram
  | .flagRead _ _ => .fault .offProgram
  | .cell _ _ _ => .fault .offProgram
  | .afterCell _ _ => .fault .offProgram
  | .raise => .fault .offProgram

/-- SETBIT: SetBitRMW with its outcome ignored, so a short read ends with ERR = NONE and no write
(R147). -/
def execSetbit (reg : BitVec 8) (bit : BitVec 3) (on : BitVec 1) (s : State) : Outcome :=
  match s.seq with
  | .start => rmwRead .read reg .finish .start Locals.init s
  | .read p l => rmwRead .read reg .finish p l s
  | .write p l => setBitWrite reg bit on p l s
  | .finish _ => finish .none {} s
  | .idle => .fault .offProgram
  | .flagRead _ _ => .fault .offProgram
  | .cell _ _ _ => .fault .offProgram
  | .afterCell _ _ => .fault .offProgram
  | .raise => .fault .offProgram

/-- WFIELD: one FieldRMW, which reports a failed read as SHORT_READ (R148). -/
def execWfield (reg : BitVec 8) (sh : BitVec 3) (val : BitVec 8) (s : State) : Outcome :=
  fieldCommand reg sh val .shortRead s

end Sys2Proof.Machine
end

