-- ==== Sys2Proof/Machine/Dispatch.lean ====
section
/-! DEFINITION. One BCE step of a command: the bus primitive or the finish at the position in SEQ. -/

namespace Sys2Proof.Machine

def exec (i : Instr) (s : State) : Host.Outcome State Fault Refusal :=
  match i with
  | .read w reg => Sys2Proof.Machine.execRead w reg s
  | .write reg val => Sys2Proof.Machine.execWrite reg val s
  | .setbit reg bit on => Sys2Proof.Machine.execSetbit reg bit on s
  | .wfield reg sh val => Sys2Proof.Machine.execWfield reg sh val s
  | .loadcal => Sys2Proof.Machine.execLoadcal s
  | .compt raw => Sys2Proof.Machine.execCompt raw s
  | .compp raw => Sys2Proof.Machine.execCompp raw s
  | .meast => Sys2Proof.Machine.execMeast s
  | .measp => Sys2Proof.Machine.execMeasp s
  | .setosr osrt osrp => Sys2Proof.Machine.execSetosr osrt osrp s
  | .getosr => Sys2Proof.Machine.execGetosr s
  | .setiir iir => Sys2Proof.Machine.execSetiir iir s
  | .getiir => Sys2Proof.Machine.execGetiir s
  | .setodr odr => Sys2Proof.Machine.execSetodr odr s
  | .getodr => Sys2Proof.Machine.execGetodr s

end Sys2Proof.Machine
end

