-- ==== Sys2Proof/Machine/HostPort.lean ====
section
/-! DEFINITION. The host CSR port: the map of spec/10_state.md R32, the selection of a CSR
(spec/20_memory.md R81), and what a host read and a host write do (spec/10_state.md R42, R49 to R52). -/

namespace Sys2Proof.Machine

/-- The registers of Table CSR (spec/10_state.md R32). -/
inductive Csr where
  | cmd
  | status
  | resultLo
  | resultHi
  | temp
  | cal (k : Fin 14)
  | coef (k : Fin 14)
  | unmapped
deriving DecidableEq, Repr

/-- The CSR of an offset. `off[1:0]` are ignored (spec/20_memory.md R81), and every offset not in Table
CSR is unmapped (spec/10_state.md R32). -/
def csrAt (off : BitVec 8) : Csr :=
  let j := off.toNat / 4
  if j = 0 then .cmd
  else if j = 1 then .status
  else if j = 2 then .resultLo
  else if j = 3 then .resultHi
  else if j = 4 then .temp
  else if h : 8 ≤ j ∧ j < 22 then .cal ⟨j - 8, by omega⟩
  else if h : 24 ≤ j ∧ j < 38 then .coef ⟨j - 24, by omega⟩
  else .unmapped

/-- The value a host read of a CSR returns (spec/10_state.md R32, R37, R43, R46 to R49, R52). -/
def State.csrValue (s : State) : Csr → Word
  | .cmd => 0
  | .status => s.status.word
  | .resultLo => s.result.extractLsb' 0 32
  | .resultHi => s.result.extractLsb' 32 32
  | .temp => s.temp
  | .cal k => calView s.cal k
  | .coef k => coefView s.cal k
  | .unmapped => 0

/-- A host read: it returns the CSR's value and changes no block state (spec/10_state.md R52). -/
def State.hostRead (s : State) (off : BitVec 8) : State :=
  { s with hostLog := s.hostLog ++ [(off, s.csrValue (csrAt off))] }

/-- A host write of `w` to CMD: acceptance while BUSY = 0 (spec/10_state.md R35), overrun while
BUSY = 1 (R42). -/
def State.submit (s : State) (w : Word) : State :=
  if s.status.busy then { s with status := { s.status with ovr := true } } else s.accept w

/-- A host write of `w` to STATUS: `if w[4] = 1 then OVR <- 0` (spec/10_state.md R50). -/
def State.writeStatus (s : State) (w : Word) : State :=
  if w[4] then { s with status := { s.status with ovr := false } } else s

/-- A host write of `w` at an offset (spec/10_state.md R49 to R52). -/
def State.hostWrite (s : State) (off : BitVec 8) (w : Word) : State :=
  match csrAt off with
  | .cmd => s.submit w
  | .status => s.writeStatus w
  | .resultLo => s
  | .resultHi => s
  | .temp => s
  | .cal _ => s
  | .coef _ => s
  | .unmapped => s

/-- One host step (spec/00_scope.md R7). -/
def State.hostAct (s : State) : HostAct → State
  | .write off w => s.hostWrite off w
  | .read off => s.hostRead off

/-- The first input has been used up. -/
def State.popInput (s : State) : State := { s with inputs := s.inputs.tail }

end Sys2Proof.Machine
end

