-- ==== Sys2Proof/Machine/Sequencer.lean ====
section
/-! DEFINITION. The BCE's turn, the fetch of the command word and what a loaded command needs to run. -/

namespace Sys2Proof.Machine

/-- The command in progress: CMDLAT decoded. CMDLAT does not change while BUSY = 1
(spec/10_state.md R33), so each step of a command decodes the same word as its first, where
spec/30_encoding.md R117 puts the decoding (log entry 6). -/
def State.command (s : State) : Except DecodeError Instr := decode s.cmdlat

/-- One turn of the BCE. While BUSY = 0 it changes no block state and issues nothing
(spec/70_reset_and_hazards.md R344; log entry 15); else it takes one step of its command (spec/10_state.md R55), or
raises ILLEGAL_COMMAND (spec/30_encoding.md R117). -/
def bceStep (s : State) : Outcome :=
  if s.status.busy then
    match s.command with
    | .error _ => illegalCommand s
    | .ok i => exec i s
  else .next s.takeTurn

/-- `w` has just been accepted (spec/10_state.md R35) and the BCE's turn comes next, with the transport
completing its first bus primitive (log entry 11). -/
def State.loadCommand (s : State) (w : Word) : State :=
  { s.accept w with inputs := .bce 0 :: s.inputs }

end Sys2Proof.Machine
end

