-- ==== Sys2Proof/Machine/Step.lean ====
section
/-! DEFINITION. The step of the whole: one step of the agent that moves next. -/

namespace Sys2Proof.Machine

/-- One step of one agent (spec/00_scope.md R6): a host step or the reset event where one stands first
in the inputs, else the BCE's (spec/10_state.md R55; log entry 3). -/
def step (s : State) : Host.Outcome State Fault Refusal :=
  match s.inputs with
  | .host a :: _ => .next (s.popInput.hostAct a)
  | .reset :: _ => .next s.popInput.assertReset
  | .bce _ :: _ => bceStep s
  | [] => bceStep s

/-- The state with the command of `nbits` bits `w` accepted and the BCE about to take its first step
(spec/10_state.md R35; log entry 11). -/
def State.withFetchWord (s : State) (nbits w : Nat) : State :=
  s.loadCommand (BitVec.ofNat 32 (w % 2 ^ nbits))

end Sys2Proof.Machine
end

