-- ==== Sys2Proof/WellFormed.lean ====
section
/-! DEFINITION. Which written commands are well formed (spec/30_encoding.md R116, R118, R119).
Every term of `Instr` is well formed by its type: each operand has its field's width, and no value of
any field is illegal by itself (R116). What can be ill formed is a line of assembly, whose operands
are numbers of any size: an operand out of its field's range is an assembler error (R118). -/

namespace Sys2Proof

/-- One line of assembly: the 15 commands in the syntax of spec/30_encoding.md R118, operands in its
order, and the pseudo-commands of R119. -/
inductive AsmLine where
  | read (n reg : Nat)
  | write (reg val : Nat)
  | setbit (reg bit on : Nat)
  | wfield (reg shift val : Nat)
  | loadcal
  | compt (raw : Nat)
  | compp (raw : Nat)
  | meast
  | measp
  | setosr (osrP osrT : Nat)
  | getosr
  | setiir (code : Nat)
  | getiir
  | setodr (code : Nat)
  | getodr
  | read8 (reg : Nat)
  | read16 (reg : Nat)
  | read24 (reg : Nat)
  | read32 (reg : Nat)
  | init
  | measure
  | setflag (reg bit : Nat)
deriving DecidableEq, Repr

/-- The operand ranges of spec/30_encoding.md R116 (and `n` = 1..4 of R118's `READ.n`). -/
def AsmLine.wellFormed : AsmLine → Bool
  | .read n reg => decide (1 ≤ n) && decide (n ≤ 4) && decide (reg < 256)
  | .write reg val => decide (reg < 256) && decide (val < 256)
  | .setbit reg bit on => decide (reg < 256) && decide (bit < 8) && decide (on < 2)
  | .wfield reg shift val => decide (reg < 256) && decide (shift < 8) && decide (val < 256)
  | .compt raw => decide (raw < 16777216)
  | .compp raw => decide (raw < 16777216)
  | .setosr osrP osrT => decide (osrP < 8) && decide (osrT < 8)
  | .setiir code => decide (code < 8)
  | .setodr code => decide (code < 32)
  | .read8 reg => decide (reg < 256)
  | .read16 reg => decide (reg < 256)
  | .read24 reg => decide (reg < 256)
  | .read32 reg => decide (reg < 256)
  | .setflag reg bit => decide (reg < 256) && decide (bit < 8)
  | .loadcal => true
  | .meast => true
  | .measp => true
  | .getosr => true
  | .getiir => true
  | .getodr => true
  | .init => true
  | .measure => true

end Sys2Proof
end

