-- ==== Sys2Proof/Machine/Assembler.lean ====
section
/-! DEFINITION. The assembler of spec/30_encoding.md R118 and R119: what a line of assembly stands for. -/

namespace Sys2Proof.Machine

/-- What a host does for a line of assembly: write a word to CMD, or `WAIT`, which is read STATUS until
BUSY = 0 and is no command (spec/30_encoding.md R119; log entry 13). -/
inductive HostOp where
  | submit (w : BitVec 32)
  | wait
deriving DecidableEq, Repr

/-- The commands of one line, operands taken as unsigned numbers of their field's width (R111, R118),
and the expansions of R119. -/
def expandLine : AsmLine → List (Option Instr)
  | .read n reg => [some (.read (BitVec.ofNat 2 (n - 1)) (BitVec.ofNat 8 reg))]
  | .write reg val => [some (.write (BitVec.ofNat 8 reg) (BitVec.ofNat 8 val))]
  | .setbit reg bit on => [some (.setbit (BitVec.ofNat 8 reg) (BitVec.ofNat 3 bit) (BitVec.ofNat 1 on))]
  | .wfield reg shift val => [some (.wfield (BitVec.ofNat 8 reg) (BitVec.ofNat 3 shift) (BitVec.ofNat 8 val))]
  | .loadcal => [some .loadcal]
  | .compt raw => [some (.compt (BitVec.ofNat 24 raw))]
  | .compp raw => [some (.compp (BitVec.ofNat 24 raw))]
  | .meast => [some .meast]
  | .measp => [some .measp]
  | .setosr osrP osrT => [some (.setosr (BitVec.ofNat 3 osrT) (BitVec.ofNat 3 osrP))]
  | .getosr => [some .getosr]
  | .setiir code => [some (.setiir (BitVec.ofNat 3 code))]
  | .getiir => [some .getiir]
  | .setodr code => [some (.setodr (BitVec.ofNat 5 code))]
  | .getodr => [some .getodr]
  | .read8 reg => [some (.read 0 (BitVec.ofNat 8 reg))]
  | .read16 reg => [some (.read 1 (BitVec.ofNat 8 reg))]
  | .read24 reg => [some (.read 2 (BitVec.ofNat 8 reg))]
  | .read32 reg => [some (.read 3 (BitVec.ofNat 8 reg))]
  | .init => [some .loadcal]
  | .measure => [some .meast, none, some .measp]
  | .setflag reg bit => [some (.setbit (BitVec.ofNat 8 reg) (BitVec.ofNat 3 bit) 1)]

/-- A line assembled: an operand out of its field's range is an assembler error, and no word is produced
(spec/30_encoding.md R118). -/
def assembleLine (a : AsmLine) : Option (List HostOp) :=
  if a.wellFormed then
    some ((expandLine a).map fun c =>
      match c with
      | some i => .submit (encode i)
      | none => .wait)
  else none

end Sys2Proof.Machine
end

