-- ==== Sys2Proof/Safety.lean ====
section
/-! DEFINITION. The terms in which claims are made: runs of many steps, the bus traces and answers of the
register accesses, which positions belong to a command, and the invariant of every state a run reaches. -/

namespace Sys2Proof.Machine

/-! ### Runs -/

/-- `k` steps, ending at the first one that gives no next state. -/
def runSteps : Nat → State → Outcome
  | 0, s => .next s
  | k + 1, s =>
    match step s with
    | .next t => runSteps k t
    | .fault r => .fault r
    | .refused r => .refused r

/-- Turns of the BCE, the transport answering `ds` in order, before the inputs `rest`. -/
def turns (ds : List Byte) (rest : List Input) : List Input := ds.map .bce ++ rest

/-- The command `i` has been accepted and has not taken its first step (spec/10_state.md R35). -/
def Started (i : Instr) (s : State) : Prop :=
  s.status.busy = true ∧ s.cmdlat = encode i ∧ s.seq = .start

/-- The state a command leaves that ends with `code`, having issued `trace`, if it writes nothing else:
SEQ idle, BUSY clear, DONE set, ERR the code (spec/10_state.md R36), and `rest` of the inputs left. -/
def State.ended (s : State) (code : ErrCode) (trace : List BusEvent) (rest : List Input) : State :=
  { s with
    seq := .idle
    status := { s.status with err := code, busy := false, done := true }
    inputs := rest
    bus := s.bus ++ trace }

/-- From `s`, where command `i` starts and the transport answers `answers`, the command issues `trace`
and ends after one more step, its finish, in state `t rest`. -/
def RunsTo (i : Instr) (answers : List Byte) (trace : List BusEvent) (s : State)
    (t : List Input → State) : Prop :=
  ∀ (last : Byte) (rest : List Input), Started i s → s.inputs = turns (answers ++ [last]) rest →
    answers.length = trace.length ∧ runSteps (trace.length + 1) s = .next (t rest)

/-! ### Traces of the register accesses (spec/40_register_access.md R140, R142) -/

/-- The trace of `MemRead(reg, n)` where the transport counts `avail` bytes and `bytes` are read. -/
def readTrace (reg : Byte) (n : Nat) (avail : Byte) (bytes : List Byte) : List BusEvent :=
  [.busBegin Config.devAddr, .busWrite reg, .busEnd, .busRequest Config.devAddr n avail] ++
    bytes.map .busRead

/-- The trace of `MemWrite(reg, v)`. -/
def writeTrace (reg v : Byte) : List BusEvent :=
  [.busBegin Config.devAddr, .busWrite reg, .busWrite v, .busEnd]

/-- `sum over i of b_i << (8*i)`, the first byte least significant (spec/20_memory.md R88). -/
def leNat : List Byte → Nat
  | [] => 0
  | b :: bs => b.toNat + 256 * leNat bs

/-- One cell read of LOADCAL as the transport answers it: what it answers to the three primitives before
the count, the count, and the bytes it has where the count suffices. -/
structure CellReply where
  a0 : BitVec 8
  a1 : BitVec 8
  a2 : BitVec 8
  avail : BitVec 8
  bytes : List (BitVec 8)
deriving DecidableEq, Repr

/-- The read of cell `k` succeeds (spec/40_register_access.md R141). -/
def CellReply.good (r : CellReply) (k : Fin 14) : Bool := decide ((cellRow k).width ≤ r.avail.toNat)

/-- The bytes read from cell `k`: none where the read is short. -/
def CellReply.taken (r : CellReply) (k : Fin 14) : List Byte := if r.good k then r.bytes else []

/-- Everything the transport answers in the read of cell `k`. -/
def CellReply.answers (r : CellReply) (k : Fin 14) : List Byte := [r.a0, r.a1, r.a2, r.avail] ++ r.taken k

/-- The trace of the read of cell `k`. -/
def CellReply.trace (r : CellReply) (k : Fin 14) : List BusEvent :=
  readTrace (cellRow k).addr (cellRow k).width r.avail (r.taken k)

/-- The answers of a whole LOADCAL, in table order (spec/41_calibration.md R182). -/
def loadAnswers (rs : Fin 14 → CellReply) : List Byte :=
  (List.finRange 14).flatMap fun k => (rs k).answers k

/-- The trace of a whole LOADCAL. -/
def loadTrace (rs : Fin 14 → CellReply) : List BusEvent :=
  (List.finRange 14).flatMap fun k => (rs k).trace k

/-- How many of the 14 reads succeed (spec/10_state.md R45). -/
def goodReads (rs : Fin 14 → CellReply) : Nat := (List.finRange 14).countP fun k => (rs k).good k

/-- The cells a LOADCAL decodes where all 14 reads succeed (spec/41_calibration.md R181, R182). -/
def loadedCells (rs : Fin 14 → CellReply) : Vector CellWord 14 :=
  Vector.ofFn fun k => decodeCell (cellRow k).type (BitVec.ofNat 32 (leNat (rs k).bytes))

/-! ### The positions of each command (spec/10_state.md R34) -/

/-- `p` is a position inside a MemRead of `n` bytes. -/
def readPosOk (n : Nat) : ReadPos → Bool
  | .start => true
  | .reg => true
  | .stop => true
  | .request => true
  | .byte i => decide (i < n)

/-- Positions of a command that is one MemRead of `n` bytes. -/
def readProgram (n : Nat) : Seq → Bool
  | .start => true
  | .read p _ => readPosOk n p
  | .finish _ => true
  | .raise => true
  | .idle => false
  | .flagRead _ _ => false
  | .cell _ _ _ => false
  | .afterCell _ _ => false
  | .write _ _ => false

/-- Positions of a command that is one FieldRMW. -/
def fieldProgram : Seq → Bool
  | .start => true
  | .read p _ => readPosOk 1 p
  | .write _ _ => true
  | .finish _ => true
  | .raise => true
  | .idle => false
  | .flagRead _ _ => false
  | .cell _ _ _ => false
  | .afterCell _ _ => false

/-- Positions of WRITE. -/
def writeProgram : Seq → Bool
  | .start => true
  | .write _ _ => true
  | .finish _ => true
  | .idle => false
  | .read _ _ => false
  | .flagRead _ _ => false
  | .cell _ _ _ => false
  | .afterCell _ _ => false
  | .raise => false

/-- Positions of SETBIT. -/
def setbitProgram : Seq → Bool
  | .start => true
  | .read p _ => readPosOk 1 p
  | .write _ _ => true
  | .finish _ => true
  | .idle => false
  | .flagRead _ _ => false
  | .cell _ _ _ => false
  | .afterCell _ _ => false
  | .raise => false

/-- Positions of LOADCAL. -/
def loadcalProgram : Seq → Bool
  | .start => true
  | .cell k p _ => readPosOk (cellRow k).width p
  | .afterCell _ _ => true
  | .finish _ => false
  | .idle => false
  | .read _ _ => false
  | .flagRead _ _ => false
  | .write _ _ => false
  | .raise => false

/-- Positions of COMPT and COMPP. -/
def compProgram : Seq → Bool
  | .start => true
  | .idle => false
  | .read _ _ => false
  | .flagRead _ _ => false
  | .cell _ _ _ => false
  | .afterCell _ _ => false
  | .write _ _ => false
  | .finish _ => false
  | .raise => false

/-- Positions of MEAST and MEASP. -/
def measProgram : Seq → Bool
  | .start => true
  | .read p _ => readPosOk 3 p
  | .flagRead p _ => readPosOk 1 p
  | .write _ _ => true
  | .finish _ => true
  | .raise => true
  | .idle => false
  | .cell _ _ _ => false
  | .afterCell _ _ => false

/-- SEQ is a position inside the command (spec/10_state.md R34). -/
def onProgram : Instr → Seq → Bool
  | .read w _ => readProgram (readCount w)
  | .write _ _ => writeProgram
  | .setbit _ _ _ => setbitProgram
  | .wfield _ _ _ => fieldProgram
  | .loadcal => loadcalProgram
  | .compt _ => compProgram
  | .compp _ => compProgram
  | .meast => measProgram
  | .measp => measProgram
  | .setosr _ _ => fieldProgram
  | .getosr => readProgram 1
  | .setiir _ => fieldProgram
  | .getiir => readProgram 1
  | .setodr _ => fieldProgram
  | .getodr => readProgram 1

/-- The first step of `i` is a bus primitive: COMPT and COMPP have none, and the checks of MEAST and MEASP
come before theirs (spec/10_state.md R55, spec/60_exceptions.md R297, R298). -/
def startsWithPrimitive (i : Instr) (st : Status) : Bool :=
  match i with
  | .compt _ => false
  | .compp _ => false
  | .meast => st.calValid
  | .measp => st.calValid && st.tValid
  | .read _ _ => true
  | .write _ _ => true
  | .setbit _ _ _ => true
  | .wfield _ _ _ => true
  | .loadcal => true
  | .setosr _ _ => true
  | .getosr => true
  | .setiir _ => true
  | .getiir => true
  | .setodr _ => true
  | .getodr => true

/-- The next step of command `i` in `s` is a bus primitive, not a finish (spec/10_state.md R34). -/
def atPrimitive (i : Instr) (s : State) : Bool :=
  match s.seq with
  | .start => startsWithPrimitive i s.status
  | .read _ _ => true
  | .flagRead _ _ => true
  | .cell _ _ _ => true
  | .afterCell k _ => decide (k.val + 1 < 14)
  | .write _ _ => true
  | .idle => false
  | .finish _ => false
  | .raise => false

/-! ### The invariant of every reachable state -/

/-- Before LOADCAL stages the outcome of cell `k`, STAGE_OK counts no more than the cells before it, and
where it counts them all, each of them is staged with a value of its type (spec/41_calibration.md R181,
R182). -/
def stagedBefore (s : State) (k : Fin 14) : Prop :=
  s.stageOk.toNat ≤ k.val ∧
    (s.stageOk.toNat = k.val → ∀ j : Fin 14, j < k → cellInRange (cellRow j).type s.stage[j] = true)

/-- STAGE and STAGE_OK within LOADCAL's loop. Nothing is said of them elsewhere, where the spec leaves them
open (spec/10_state.md R53), so the invariant does not rest on log entry 2. -/
def stagingOk (s : State) : Prop :=
  match s.seq with
  | .cell k _ _ => stagedBefore s k
  | .afterCell k _ => stagedBefore s k
  | .idle => True
  | .start => True
  | .read _ _ => True
  | .flagRead _ _ => True
  | .write _ _ => True
  | .finish _ => True
  | .raise => True

/-- What every state of a run from reset satisfies. -/
structure Inv (s : State) : Prop where
  /-- BUSY = 0 exactly when SEQ is IDLE (spec/10_state.md R34). -/
  idle_iff : s.status.busy = false ↔ s.seq = .idle
  /-- While BUSY = 1, SEQ is a position of the command in CMDLAT (R34). -/
  on_program : s.status.busy = true → ∀ i, s.command = .ok i → onProgram i s.seq = true
  /-- DONE is clear while BUSY = 1 (R35, R36). -/
  busy_not_done : s.status.busy = true → s.status.done = false
  /-- NO_ACK is never reported (spec/60_exceptions.md R293). -/
  err_reported : s.status.err ≠ .noAck
  /-- CAL_OK is 0..14 (spec/10_state.md R45). -/
  cal_ok_le : s.status.calOk.toNat ≤ 14
  /-- STAGE and STAGE_OK within LOADCAL's loop (spec/41_calibration.md R182). -/
  staging : stagingOk s
  /-- Every element of CAL holds a value of its cell's type (R47). -/
  cal_range : calInRange s.cal = true
  /-- A valid TEMP goes with a valid calibration (R40, R41). -/
  temp_calibrated : s.status.tValid = true → s.status.calValid = true
  /-- A valid TEMP lies in the range of spec/42_compensation.md R218. -/
  temp_range : s.status.tValid = true → |s.temp.toInt| ≤ 1207943088
  /-- A measurement past its checks has a valid calibration (R297). -/
  meas_calibrated : s.status.busy = true → s.seq ≠ .start →
    s.command = .ok .meast ∨ s.command = .ok .measp → s.status.calValid = true

end Sys2Proof.Machine
end

