-- ==== Sys2Proof/Certificates/Slice0/Obligations.lean ====
section
/-! DEFINITION. The statements for the provers, each from the rules of spec/ its docstring names. Where a
statement says `.bce d :: rest`, the BCE's turn comes next and the transport answers `d`. Where a statement gives a
whole next state, that STAGE and STAGE_OK stand in it as before, outside LOADCAL, is the model's choice (log
entry 17): spec/10_state.md R53 leaves them open between commands. -/

open Sys2Proof Sys2Proof.Machine

/-! ### Encoding -/

/-- Decoding the word of a command gives the command back, for every value of every field
(spec/30_encoding.md R111 to R113, R116). -/
def Obligations.DecodeEncodeAgree : Prop := ∀ i : Instr, decode (encode i) = .ok i

/-- A word has one meaning: the command it decodes to encodes to the same word (spec/30_encoding.md R112,
R117). -/
def Obligations.EncodeOfDecodedWord : Prop := ∀ (w : Word) (i : Instr), decode w = .ok i → encode i = w

/-- spec/30_encoding.md R113: the opcode map, and a word spells a command exactly when `w & mask = match`
for a row, the command then being that row's with its fields. -/
def Obligations.WordSpellsCommandByMaskAndMatch : Prop :=
  opcodeMap.map (fun r => (r.mnemonic, r.opc, r.value, r.mask)) =
    [("READ", 0x1, 0x10000000, 0xFCFFFF00), ("WRITE", 0x2, 0x20000000, 0xFFFF0000),
     ("SETBIT", 0x3, 0x30000000, 0xFFF0FF00), ("WFIELD", 0x4, 0x40000000, 0xFFF80000),
     ("LOADCAL", 0x5, 0x50000000, 0xFFFFFFFF), ("COMPT", 0x6, 0x60000000, 0xFF000000),
     ("COMPP", 0x7, 0x70000000, 0xFF000000), ("MEAST", 0x8, 0x80000000, 0xFFFFFFFF),
     ("MEASP", 0x9, 0x90000000, 0xFFFFFFFF), ("SETOSR", 0xA, 0xA0000000, 0xFFFFFFC0),
     ("GETOSR", 0xB, 0xB0000000, 0xFFFFFFFF), ("SETIIR", 0xC, 0xC0000000, 0xFFFFFFF8),
     ("GETIIR", 0xD, 0xD0000000, 0xFFFFFFFF), ("SETODR", 0xE, 0xE0000000, 0xFFFFFFE0),
     ("GETODR", 0xF, 0xF0000000, 0xFFFFFFFF)] ∧
  (∀ (w : Word) (i : Instr), decode w = .ok i ↔
    ∃ r ∈ opcodeMap, w &&& r.mask = r.value ∧ i = r.build w)

/-- spec/30_encoding.md R117: every word decodes to one command or is illegal, and no two rows of the
opcode map match the same word. -/
def Obligations.NoTwoRowsMatchOneWord : Prop :=
  (∀ w : Word, ∀ r ∈ opcodeMap, ∀ r' ∈ opcodeMap, w &&& r.mask = r.value → w &&& r'.mask = r'.value →
    r.mnemonic = r'.mnemonic) ∧
  (∀ w : Word, (∃ i, decode w = .ok i) ↔ ¬ ∃ e, decode w = .error e)

/-- Words written out in spec/95_test_vectors.md section 2.1. -/
def Obligations.SampleWordsDecode : Prop :=
  decode 0x13000004 = .ok (.read 3 0x04) ∧ decode 0x2000331B = .ok (.write 0x1B 0x33) ∧
  decode 0x3009001B = .ok (.setbit 0x1B 1 1) ∧ decode 0x4004FF1D = .ok (.wfield 0x1D 4 0xFF) ∧
  decode 0x50000000 = .ok .loadcal ∧ decode 0x607F0788 = .ok (.compt 8325000) ∧
  decode 0x90000000 = .ok .measp ∧ decode 0xA000000B = .ok (.setosr 1 3) ∧
  decode 0xE0000011 = .ok (.setodr 17) ∧ decode 0xF0000000 = .ok .getodr ∧
  decode 0x00000000 = .error .reservedOpcode ∧ decode 0x61000000 = .error (.reservedBit "COMPT")

/-- spec/60_exceptions.md R299 and spec/30_encoding.md R114: a latched word with OPC 0x0, or with a 1 in a
bit its format marks `0`, ends at its first step with ERR = 8, no bus primitive and no other change,
whether or not the transport answers. The bits a format marks `0` are those of its mask below OPC. -/
def Obligations.IllegalCommandChangesOnlyStatus : Prop :=
  ErrCode.illegalCommand.code = 8 ∧
  ∀ s : State, s.status.busy = true →
    (opcodeField s.cmdlat = 0 ∨
      ∃ r ∈ opcodeMap, r.opc = opcodeField s.cmdlat ∧ s.cmdlat &&& r.mask &&& 0x0FFFFFFF#32 ≠ 0) →
    (∀ d rest, s.inputs = .bce d :: rest → step s = .next (s.ended .illegalCommand [] rest)) ∧
    (s.inputs = [] → step s = .next (s.ended .illegalCommand [] []))

/-! ### The step, the host port and reset -/

/-- A step with the BCE's turn runs the command in CMDLAT (spec/10_state.md R34, R55;
spec/30_encoding.md R117); a step with a host access first is that access. -/
def Obligations.StepRunsTheLatchedCommand : Prop :=
  ∀ s : State,
    (∀ i, s.status.busy = true → decode s.cmdlat = .ok i →
      (∀ d rest, s.inputs = .bce d :: rest → step s = exec i s) ∧ (s.inputs = [] → step s = exec i s)) ∧
    (∀ a rest, s.inputs = .host a :: rest → step s = .next ({ s with inputs := rest }.hostAct a))

/-- The word that `withFetchWord` places is the command the very next step runs, from its first statement
(spec/10_state.md R35; how a program comes to run is log entry 11, the model's choice). -/
def Obligations.LoadedWordRunsNext : Prop :=
  ∀ (s : State) (i : Instr),
    Started i (s.withFetchWord 32 (encode i).toNat) ∧
    step (s.withFetchWord 32 (encode i).toNat) = exec i (s.withFetchWord 32 (encode i).toNat)

/-- spec/10_state.md R35: a host write to CMD while BUSY = 0 loads CMDLAT, sets SEQ to the start, sets BUSY
and clears DONE, and changes nothing else of the block (offsets 0 to 3 are CMD, spec/20_memory.md R81). -/
def Obligations.IdleBlockAcceptsCommand : Prop :=
  ∀ (s : State) (off : BitVec 8) (w : Word) (rest : List Input),
    s.status.busy = false → off.toNat / 4 = 0 → s.inputs = .host (.write off w) :: rest →
    step s = .next { s with
      inputs := rest, cmdlat := w, seq := .start, status := { s.status with busy := true, done := false } }

/-- spec/10_state.md R42: a host write to CMD while BUSY = 1 sets OVR and changes nothing else, and OVR
changes only so, by a host write to STATUS with bit 4 set, or by reset; no BCE step depends on it. -/
def Obligations.OverrunSetsOnlyOvr : Prop :=
  (∀ (s : State) (off : BitVec 8) (w : Word) (rest : List Input),
    s.status.busy = true → off.toNat / 4 = 0 → s.inputs = .host (.write off w) :: rest →
    step s = .next { s with inputs := rest, status := { s.status with ovr := true } }) ∧
  (∀ s t : State, step s = .next t → t.status.ovr ≠ s.status.ovr →
    (∃ rest, s.inputs = .reset :: rest ∧ t.status.ovr = false) ∨
    (∃ off w rest, s.inputs = .host (.write off w) :: rest ∧
      ((off.toNat / 4 = 0 ∧ s.status.busy = true ∧ t.status.ovr = true) ∨
       (off.toNat / 4 = 1 ∧ w.getLsbD 4 = true ∧ t.status.ovr = false)))) ∧
  (∀ (s t : State) (b : Bool), ((∃ d rest, s.inputs = .bce d :: rest) ∨ s.inputs = []) → step s = .next t →
    step { s with status := { s.status with ovr := b } } =
      .next { t with status := { t.status with ovr := b } })

/-- spec/10_state.md R50: a host write to STATUS clears OVR where bit 4 of the word is 1; all other bits
are ignored, nothing else changes, and BUSY does not matter. -/
def Obligations.StatusWriteClearsOnlyOvr : Prop :=
  ∀ (s : State) (off : BitVec 8) (w : Word) (rest : List Input),
    off.toNat / 4 = 1 → s.inputs = .host (.write off w) :: rest →
    step s = .next { s with
      inputs := rest
      status := { s.status with ovr := if w.getLsbD 4 then false else s.status.ovr } }

/-- spec/10_state.md R51: a host write to any other CSR is ignored. -/
def Obligations.ReadOnlyWritesAreIgnored : Prop :=
  ∀ (s : State) (off : BitVec 8) (w : Word) (rest : List Input),
    2 ≤ off.toNat / 4 → s.inputs = .host (.write off w) :: rest → step s = .next { s with inputs := rest }

/-- spec/10_state.md R52 and spec/20_memory.md R81: a host read selects the CSR at `off[7:2] * 4`, returns
its value, 0 for an unmapped offset, and changes no block state; a write to an unmapped offset is
ignored. -/
def Obligations.HostReadsFollowTheMap : Prop :=
  ∀ (s : State) (off : BitVec 8) (rest : List Input),
    (s.inputs = .host (.read off) :: rest →
      ∃ v : Word, step s = .next { s with inputs := rest, hostLog := s.hostLog ++ [(off, v)] } ∧
        (off.toNat / 4 = 0 → v = 0) ∧
        (off.toNat / 4 = 1 → v = s.status.word) ∧
        (off.toNat / 4 = 2 → v = s.result.extractLsb' 0 32) ∧
        (off.toNat / 4 = 3 → v = s.result.extractLsb' 32 32) ∧
        (off.toNat / 4 = 4 → v = s.temp) ∧
        (∀ k : Fin 14, off.toNat / 4 = 8 + k.val → v = calView s.cal k) ∧
        (∀ k : Fin 14, off.toNat / 4 = 24 + k.val → v = coefView s.cal k) ∧
        ((5 ≤ off.toNat / 4 ∧ off.toNat / 4 ≤ 7) ∨ (22 ≤ off.toNat / 4 ∧ off.toNat / 4 ≤ 23) ∨
          38 ≤ off.toNat / 4 → v = 0)) ∧
    (∀ w, ((5 ≤ off.toNat / 4 ∧ off.toNat / 4 ≤ 7) ∨ (22 ≤ off.toNat / 4 ∧ off.toNat / 4 ≤ 23) ∨
          38 ≤ off.toNat / 4) → s.inputs = .host (.write off w) :: rest → step s = .next { s with inputs := rest })

/-- The layout of the STATUS word (spec/10_state.md R37): every field at its bits, the reserved bits 0, and
0x00000000 after reset. -/
def Obligations.StatusWordLayout : Prop :=
  (∀ st : Status,
    st.word.getLsbD 0 = st.busy ∧ st.word.getLsbD 1 = st.done ∧ st.word.getLsbD 2 = st.calValid ∧
    st.word.getLsbD 3 = st.tValid ∧ st.word.getLsbD 4 = st.ovr ∧ st.word.extractLsb' 5 3 = 0 ∧
    st.word.extractLsb' 8 4 = st.err.code ∧ st.word.extractLsb' 12 4 = 0 ∧
    st.word.extractLsb' 16 4 = st.calOk ∧ st.word.extractLsb' 20 12 = 0) ∧
  State.reset.status.word = 0x00000000

/-- spec/70_reset_and_hazards.md R330: reset abandons the executing command, issues no bus primitive and
sets every element whose reset value the spec gives to it; no primitive follows. (STAGE and STAGE_OK are
unspecified there, and nothing is said of them.) -/
def Obligations.ResetAbandonsTheCommand : Prop :=
  ∀ (s : State) (rest : List Input), s.inputs = .reset :: rest →
    ∃ t, step s = .next t ∧ t.cmdlat = 0x00000000 ∧ t.seq = .idle ∧ t.status.word = 0x00000000 ∧
      t.result = 0 ∧ t.temp = 0 ∧ (∀ k : Fin 14, t.cal[k] = 0) ∧
      t.bus = s.bus ∧ t.hostLog = s.hostLog ∧ t.inputs = rest ∧
      (∀ ds, rest = turns ds [] → runSteps ds.length t = .next { t with inputs := [] })

/-- spec/70_reset_and_hazards.md R331: the values after reset as the host reads them, and no command runs
from there by itself. -/
def Obligations.ResetStateReadsAsStated : Prop :=
  State.reset.cmdlat = 0x00000000 ∧ State.reset.seq = .idle ∧ State.reset.status.word = 0x00000000 ∧
  State.reset.result = 0x0000000000000000 ∧ State.reset.temp = 0x00000000 ∧
  (∀ k : Fin 14, State.reset.cal[k] = 0) ∧
  (∀ k : Fin 14, State.reset.csrValue (.cal k) = 0x00000000) ∧
  (∀ k : Fin 14, State.reset.csrValue (.coef k) = if k = 3 ∨ k = 4 then 0xFFFFC000 else 0) ∧
  (∀ n, runSteps n State.reset = .next State.reset) ∧
  (∀ ds, runSteps ds.length { State.reset with inputs := turns ds [] } = .next State.reset)

/-- While BUSY = 0 the block changes no state and issues no bus primitive by itself
(spec/70_reset_and_hazards.md R344). -/
def Obligations.IdleBlockIsQuiescent : Prop :=
  ∀ s : State, s.status.busy = false →
    (s.inputs = [] → step s = .next s) ∧
    (∀ d rest, s.inputs = .bce d :: rest → step s = .next { s with inputs := rest })

/-- spec/70_reset_and_hazards.md R341: at a bus primitive that the transport never completes the command
stays for ever, with BUSY = 1, whatever the host reads or writes meanwhile; reset is the way out. -/
def Obligations.UnansweredPrimitiveStallsForEver : Prop :=
  ∀ (s : State) (i : Instr), s.status.busy = true → decode s.cmdlat = .ok i →
    onProgram i s.seq = true → atPrimitive i s = true →
    (∀ (acts : List HostAct) (n : Nat), s.inputs = acts.map .host →
      ∃ t, runSteps n s = .next t ∧ t.status.busy = true ∧ t.seq = s.seq ∧ t.cmdlat = s.cmdlat ∧
        t.bus = s.bus ∧ t.result = s.result ∧ t.temp = s.temp ∧ t.cal = s.cal) ∧
    (∀ rest, s.inputs = .reset :: rest → ∃ t, step s = .next t ∧ t.status.busy = false ∧ t.seq = .idle)

/-! ### One step of each command -/

/-- The commands that return a value end with it in RESULT and ERR = NONE, and change nothing else: READ
the bytes zero-extended (spec/40_register_access.md R145), the getters the field above the raw byte
(spec/43_configuration.md R265, R267, R269). `l.v` is the value MemRead returned. -/
def Obligations.ReadingCommandsReturnTheirValue : Prop :=
  ∀ (s : State) (l : Locals), s.seq = .finish l →
    (∀ w reg, exec (.read w reg) s =
      .next { s.ended .none [] (afterTurn s.inputs) with result := 0#32 ++ l.v }) ∧
    exec .getosr s = .next { s.ended .none [] (afterTurn s.inputs) with
      result := 0#50 ++ l.byte.extractLsb' 0 6 ++ l.byte } ∧
    exec .getiir s = .next { s.ended .none [] (afterTurn s.inputs) with
      result := 0#53 ++ l.byte.extractLsb' 1 3 ++ l.byte } ∧
    exec .getodr s = .next { s.ended .none [] (afterTurn s.inputs) with
      result := 0#51 ++ l.byte.extractLsb' 0 5 ++ l.byte }

/-- The commands that only write end with ERR = NONE and leave RESULT and everything else
(spec/40_register_access.md R146 to R148, spec/43_configuration.md R264, R266, R268). -/
def Obligations.WritingCommandsEndCleanly : Prop :=
  ∀ (s : State) (l : Locals), s.seq = .finish l →
    (∀ reg val, exec (.write reg val) s = .next (s.ended .none [] (afterTurn s.inputs))) ∧
    (∀ reg bit on, exec (.setbit reg bit on) s = .next (s.ended .none [] (afterTurn s.inputs))) ∧
    (∀ reg sh val, exec (.wfield reg sh val) s = .next (s.ended .none [] (afterTurn s.inputs))) ∧
    (∀ osrt osrp, exec (.setosr osrt osrp) s = .next (s.ended .none [] (afterTurn s.inputs))) ∧
    (∀ iir, exec (.setiir iir) s = .next (s.ended .none [] (afterTurn s.inputs))) ∧
    (∀ odr, exec (.setodr odr) s = .next (s.ended .none [] (afterTurn s.inputs)))

/-- The byte that each writing command puts on the bus, with the rest of the state unchanged but for the
turn, the trace and SEQ (spec/40_register_access.md R142 to R144, R146 to R148; spec/42_compensation.md R222,
R223; spec/43_configuration.md R264, R266, R268). `l.byte` is the byte read before. -/
def Obligations.RegisterWritesCarryTheirByte : Prop :=
  ∀ (s : State) (l : Locals) (d : Byte) (rest : List Input),
    s.seq = .write .val l → s.inputs = .bce d :: rest →
    let put (v : Byte) : State := { s with
      inputs := rest, bus := s.bus ++ [.busWrite v], seq := .write .stop l }
    (∀ reg val, exec (.write reg val) s = .next (put val)) ∧
    (∀ reg (bit : BitVec 3) on, exec (.setbit reg bit on) s =
      .next (put (if on = 1 then l.byte ||| (1 <<< bit.toNat) else l.byte))) ∧
    (∀ reg (sh : BitVec 3) (val : Byte), exec (.wfield reg sh val) s =
      .next (put (BitVec.ofNat 8 (l.byte.toNat ||| (val.toNat * 2 ^ sh.toNat))))) ∧
    exec .meast s = .next (put (l.byte ||| 0b00000010)) ∧
    exec .measp s = .next (put (l.byte ||| 0b00000001)) ∧
    (∀ osrt osrp, exec (.setosr osrt osrp) s = .next (put (l.byte ||| (0#2 ++ osrt ++ osrp)))) ∧
    (∀ iir, exec (.setiir iir) s = .next (put (l.byte ||| (0#4 ++ iir ++ 0#1)))) ∧
    (∀ odr, exec (.setodr odr) s = .next (put (l.byte ||| (0#3 ++ odr))))

/-- At the raise of a short MemRead, READ and WFIELD end with SHORT_READ (1), MEAST and MEASP with
MEASUREMENT (4), the setters and the getters with CONFIGURATION (5), and nothing but STATUS and SEQ changes
(spec/60_exceptions.md R292, R295, R296). SETBIT, LOADCAL and the flag read of MEAST and MEASP raise nothing
on a short read, and are not spoken of here. -/
def Obligations.FailedReadRaisesItsError : Prop :=
  ErrCode.shortRead.code = 1 ∧ ErrCode.measurement.code = 4 ∧ ErrCode.configuration.code = 5 ∧
  ∀ s : State, s.seq = .raise →
    (∀ i : Instr, ((∃ w reg, i = .read w reg) ∨ (∃ reg sh val, i = .wfield reg sh val)) →
      exec i s = .next (s.ended .shortRead [] (afterTurn s.inputs))) ∧
    (∀ i : Instr, (i = .meast ∨ i = .measp) →
      exec i s = .next (s.ended .measurement [] (afterTurn s.inputs))) ∧
    (∀ i : Instr, ((∃ a b, i = .setosr a b) ∨ (∃ a, i = .setiir a) ∨ (∃ a, i = .setodr a) ∨
        i = .getosr ∨ i = .getiir ∨ i = .getodr) →
      exec i s = .next (s.ended .configuration [] (afterTurn s.inputs)))

/-- spec/42_compensation.md R220: COMPT is its one finish step. Uncalibrated it raises NOT_CALIBRATED; else
it stores TempComp(RAW) in TEMP and RESULT, exactly where CAL holds values of its cells' types (R218), and
sets T_VALID. -/
def Obligations.ComptStoresTheTemperature : Prop :=
  ∀ (raw : BitVec 24) (s : State), s.seq = .start →
    (s.status.calValid = false →
      exec (.compt raw) s = .next (s.ended .notCalibrated [] (afterTurn s.inputs))) ∧
    (s.status.calValid = true →
      ∃ tq : BitVec 32,
        exec (.compt raw) s = .next { s.ended .none [] (afterTurn s.inputs) with
          temp := tq
          result := tq.signExtend 64
          status := { s.status with tValid := true, err := .none, busy := false, done := true } } ∧
        tq = BitVec.ofInt 32 (tempComp s.cal raw) ∧
        (calInRange s.cal = true → tq.toInt = tempComp s.cal raw))

/-- spec/42_compensation.md R221: COMPP is its one finish step. It raises NOT_CALIBRATED, then
NO_TEMPERATURE; else it puts PressComp(RAW, sext(TEMP)) in RESULT, exactly where CAL holds values of its
cells' types and TEMP lies in the range of R218, and changes nothing else. -/
def Obligations.ComppReturnsThePressure : Prop :=
  ∀ (raw : BitVec 24) (s : State), s.seq = .start →
    (s.status.calValid = false →
      exec (.compp raw) s = .next (s.ended .notCalibrated [] (afterTurn s.inputs))) ∧
    (s.status.calValid = true → s.status.tValid = false →
      exec (.compp raw) s = .next (s.ended .noTemperature [] (afterTurn s.inputs))) ∧
    (s.status.calValid = true → s.status.tValid = true →
      ∃ pq : BitVec 64,
        exec (.compp raw) s = .next { s.ended .none [] (afterTurn s.inputs) with result := pq } ∧
        pq = BitVec.ofInt 64 (pressComp s.cal raw s.temp.toInt) ∧
        (calInRange s.cal = true → |s.temp.toInt| ≤ 1207943088 →
          pq.toInt = pressComp s.cal raw s.temp.toInt))

/-- MEAST and MEASP end by compensating the sample they read (spec/42_compensation.md R222, R223). -/
def Obligations.MeasurementsCompensateTheirSample : Prop :=
  ∀ (s : State) (l : Locals), s.seq = .finish l →
    exec .meast s = .next { s.ended .none [] (afterTurn s.inputs) with
      temp := BitVec.ofInt 32 (tempComp s.cal l.sample)
      result := (BitVec.ofInt 32 (tempComp s.cal l.sample)).signExtend 64
      status := { s.status with tValid := true, err := .none, busy := false, done := true } } ∧
    exec .measp s = .next { s.ended .none [] (afterTurn s.inputs) with
      result := BitVec.ofInt 64 (pressComp s.cal l.sample s.temp.toInt) }

/-- LOADCAL's last step stages and counts what the read of cell 13 returned, then commits STAGE to CAL whole
where all 14 reads succeeded, and leaves CAL and raises CAL_INCOMPLETE (3) where not; CAL_OK, CAL_VALID and
T_VALID as spec/41_calibration.md R182, R183 and spec/60_exceptions.md R294 say. That STAGE and STAGE_OK still
hold those values after the command is the model's choice (log entry 17). -/
def Obligations.LoadcalCommitsAllOrNothing : Prop :=
  ErrCode.calIncomplete.code = 3 ∧
  ∀ (s : State) (r : Option (BitVec 32)), s.seq = .afterCell 13 r →
    let staged : Vector CellWord 14 :=
      match r with
      | some v => s.stage.set 13 (decodeCell (cellRow 13).type v)
      | none => s.stage
    let count : BitVec 4 :=
      match r with
      | some _ => s.stageOk + 1
      | none => s.stageOk
    (count = 14 → exec .loadcal s = .next { s.ended .none [] (afterTurn s.inputs) with
      stage := staged
      stageOk := count
      cal := staged
      status := { s.status with
        calOk := 14, calValid := true, tValid := false, err := .none, busy := false, done := true } }) ∧
    (count ≠ 14 → exec .loadcal s = .next { s.ended .calIncomplete [] (afterTurn s.inputs) with
      stage := staged
      stageOk := count
      status := { s.status with
        calOk := count, calValid := false, tValid := false, err := .calIncomplete, busy := false,
        done := true } })

/-- spec/60_exceptions.md R297: COMPT, COMPP, MEAST and MEASP started while CAL_VALID = 0 end at once with
ERR = 6, no bus primitive and no other change. -/
def Obligations.UncalibratedCommandsAreRefused : Prop :=
  ErrCode.notCalibrated.code = 6 ∧
  ∀ (i : Instr) (s : State), ((∃ raw, i = .compt raw) ∨ (∃ raw, i = .compp raw) ∨ i = .meast ∨ i = .measp) →
    s.seq = .start → s.status.calValid = false →
    exec i s = .next (s.ended .notCalibrated [] (afterTurn s.inputs))

/-- spec/60_exceptions.md R298: COMPP and MEASP started with CAL_VALID = 1 and T_VALID = 0 end at once with
ERR = 7, no bus primitive and no other change. -/
def Obligations.PressureWithoutTemperatureIsRefused : Prop :=
  ErrCode.noTemperature.code = 7 ∧
  ∀ (i : Instr) (s : State), ((∃ raw, i = .compp raw) ∨ i = .measp) →
    s.seq = .start → s.status.calValid = true → s.status.tValid = false →
    exec i s = .next (s.ended .noTemperature [] (afterTurn s.inputs))

/-! ### Whole runs of the commands, from acceptance to completion -/

/-- spec/40_register_access.md R145, with R140 and R141: READ issues the trace of MemRead(REG, W + 1) and
returns the bytes, first byte least significant, in RESULT; where avail < n it reads no byte and ends with
SHORT_READ, RESULT unchanged. -/
def Obligations.ReadRunsToItsResult : Prop :=
  ∀ (w : BitVec 2) (reg a0 a1 a2 avail : Byte) (bytes : List Byte) (s : State),
    (w.toNat + 1 ≤ avail.toNat → bytes.length = w.toNat + 1 →
      RunsTo (.read w reg) ([a0, a1, a2, avail] ++ bytes) (readTrace reg (w.toNat + 1) avail bytes) s
        (fun rest => { s.ended .none (readTrace reg (w.toNat + 1) avail bytes) rest with
          result := BitVec.ofNat 64 (leNat bytes) })) ∧
    (avail.toNat < w.toNat + 1 →
      RunsTo (.read w reg) [a0, a1, a2, avail] (readTrace reg (w.toNat + 1) avail []) s
        (fun rest => s.ended .shortRead (readTrace reg (w.toNat + 1) avail []) rest))

/-- spec/40_register_access.md R146, with R142: WRITE issues the trace of MemWrite(REG, VAL) and ends with
ERR = NONE, RESULT unchanged. -/
def Obligations.WriteRunsToItsEnd : Prop :=
  ∀ (reg val a0 a1 a2 a3 : Byte) (s : State),
    RunsTo (.write reg val) [a0, a1, a2, a3] (writeTrace reg val) s
      (fun rest => s.ended .none (writeTrace reg val) rest)

/-- spec/40_register_access.md R147, with R143: SETBIT reads one byte and writes it back with the bit set
where ON = 1 and unchanged where ON = 0; where the read is short it writes nothing. ERR = NONE always. -/
def Obligations.SetbitRunsSilently : Prop :=
  ∀ (reg : Byte) (bit : BitVec 3) (on : BitVec 1) (a0 a1 a2 avail b c0 c1 c2 c3 : Byte) (s : State),
    let new : Byte := if on = 1 then b ||| (1 <<< bit.toNat) else b
    (1 ≤ avail.toNat →
      RunsTo (.setbit reg bit on) [a0, a1, a2, avail, b, c0, c1, c2, c3]
        (readTrace reg 1 avail [b] ++ writeTrace reg new) s
        (fun rest => s.ended .none (readTrace reg 1 avail [b] ++ writeTrace reg new) rest)) ∧
    (avail.toNat = 0 →
      RunsTo (.setbit reg bit on) [a0, a1, a2, avail] (readTrace reg 1 avail []) s
        (fun rest => s.ended .none (readTrace reg 1 avail []) rest))

/-- spec/40_register_access.md R148, with R144: WFIELD writes back `(old | (VAL << SH))[7:0]`; where the read
is short it writes nothing and ends with SHORT_READ. RESULT is unchanged. -/
def Obligations.WfieldRunsCumulatively : Prop :=
  ∀ (reg : Byte) (sh : BitVec 3) (val a0 a1 a2 avail b c0 c1 c2 c3 : Byte) (s : State),
    let new : Byte := BitVec.ofNat 8 (b.toNat ||| (val.toNat * 2 ^ sh.toNat))
    (1 ≤ avail.toNat →
      RunsTo (.wfield reg sh val) [a0, a1, a2, avail, b, c0, c1, c2, c3]
        (readTrace reg 1 avail [b] ++ writeTrace reg new) s
        (fun rest => s.ended .none (readTrace reg 1 avail [b] ++ writeTrace reg new) rest)) ∧
    (avail.toNat = 0 →
      RunsTo (.wfield reg sh val) [a0, a1, a2, avail] (readTrace reg 1 avail []) s
        (fun rest => s.ended .shortRead (readTrace reg 1 avail []) rest))

/-- spec/41_calibration.md R182, R183: a whole LOADCAL, whichever of its 14 reads succeed. It issues the 14
read sequences in table order, decodes the cells of the good reads, and commits all 14 at completion or
none, with CAL_INCOMPLETE (3). Nothing is said of STAGE and STAGE_OK, which no host sees
(spec/10_state.md R53). -/
def Obligations.LoadcalRunsAllOrNothing : Prop :=
  ErrCode.calIncomplete.code = 3 ∧
  ∀ (rs : Fin 14 → CellReply) (s : State) (last : Byte) (rest : List Input),
    (∀ k, (rs k).good k = true → (rs k).bytes.length = (cellRow k).width) →
    Started .loadcal s → s.inputs = turns (loadAnswers rs ++ [last]) rest →
    ∃ t, runSteps ((loadTrace rs).length + 1) s = .next t ∧
      t.cmdlat = s.cmdlat ∧ t.seq = .idle ∧ t.result = s.result ∧ t.temp = s.temp ∧
      t.inputs = rest ∧ t.bus = s.bus ++ loadTrace rs ∧ t.hostLog = s.hostLog ∧
      t.cal = (if goodReads rs = 14 then loadedCells rs else s.cal) ∧
      t.status = { s.status with
        busy := false
        done := true
        calValid := decide (goodReads rs = 14)
        tValid := false
        err := if goodReads rs = 14 then .none else .calIncomplete
        calOk := BitVec.ofNat 4 (goodReads rs) }

/-- spec/42_compensation.md R222: MEAST reads the raw temperature at 0x07, sets bit 1 of 0x1B (silently
where that read is short), and stores TempComp of the sample in TEMP and RESULT; where the raw read is short
it ends with MEASUREMENT, no flag write, and TEMP, T_VALID and RESULT unchanged. Uncalibrated it raises
NOT_CALIBRATED with no bus primitive. -/
def Obligations.MeastRunsToItsTemperature : Prop :=
  ∀ (a0 a1 a2 avail b0 b1 b2 c0 c1 c2 avail' p e0 e1 e2 e3 : Byte) (s : State),
    (s.status.calValid = false → RunsTo .meast [] [] s (fun rest => s.ended .notCalibrated [] rest)) ∧
    (s.status.calValid = true →
    let tq := BitVec.ofInt 32 (tempComp s.cal (BitVec.ofNat 24 (leNat [b0, b1, b2])))
    let measured (trace : List BusEvent) (rest : List Input) : State :=
      { s.ended .none trace rest with
        temp := tq
        result := tq.signExtend 64
        status := { s.status with tValid := true, err := .none, busy := false, done := true } }
    let raw := readTrace 0x07 3 avail [b0, b1, b2]
    (3 ≤ avail.toNat → 1 ≤ avail'.toNat →
      RunsTo .meast [a0, a1, a2, avail, b0, b1, b2, c0, c1, c2, avail', p, e0, e1, e2, e3]
        (raw ++ readTrace 0x1B 1 avail' [p] ++ writeTrace 0x1B (p ||| 0x02)) s
        (measured (raw ++ readTrace 0x1B 1 avail' [p] ++ writeTrace 0x1B (p ||| 0x02)))) ∧
    (3 ≤ avail.toNat → avail'.toNat = 0 →
      RunsTo .meast [a0, a1, a2, avail, b0, b1, b2, c0, c1, c2, avail']
        (raw ++ readTrace 0x1B 1 avail' []) s (measured (raw ++ readTrace 0x1B 1 avail' []))) ∧
    (avail.toNat < 3 →
      RunsTo .meast [a0, a1, a2, avail] (readTrace 0x07 3 avail []) s
        (fun rest => s.ended .measurement (readTrace 0x07 3 avail []) rest)))

/-- spec/42_compensation.md R223: MEASP reads the raw pressure at 0x04, sets bit 0 of 0x1B (silently where
that read is short), and puts PressComp of the sample at the stored TEMP in RESULT; where the raw read is
short it ends with MEASUREMENT and RESULT unchanged. TEMP never changes. NOT_CALIBRATED, then
NO_TEMPERATURE, come before any bus primitive. -/
def Obligations.MeaspRunsToItsPressure : Prop :=
  ∀ (a0 a1 a2 avail b0 b1 b2 c0 c1 c2 avail' p e0 e1 e2 e3 : Byte) (s : State),
    (s.status.calValid = false → RunsTo .measp [] [] s (fun rest => s.ended .notCalibrated [] rest)) ∧
    (s.status.calValid = true → s.status.tValid = false →
      RunsTo .measp [] [] s (fun rest => s.ended .noTemperature [] rest)) ∧
    (s.status.calValid = true → s.status.tValid = true →
    let measured (trace : List BusEvent) (rest : List Input) : State :=
      { s.ended .none trace rest with
        result := BitVec.ofInt 64 (pressComp s.cal (BitVec.ofNat 24 (leNat [b0, b1, b2])) s.temp.toInt) }
    let raw := readTrace 0x04 3 avail [b0, b1, b2]
    (3 ≤ avail.toNat → 1 ≤ avail'.toNat →
      RunsTo .measp [a0, a1, a2, avail, b0, b1, b2, c0, c1, c2, avail', p, e0, e1, e2, e3]
        (raw ++ readTrace 0x1B 1 avail' [p] ++ writeTrace 0x1B (p ||| 0x01)) s
        (measured (raw ++ readTrace 0x1B 1 avail' [p] ++ writeTrace 0x1B (p ||| 0x01)))) ∧
    (3 ≤ avail.toNat → avail'.toNat = 0 →
      RunsTo .measp [a0, a1, a2, avail, b0, b1, b2, c0, c1, c2, avail']
        (raw ++ readTrace 0x1B 1 avail' []) s (measured (raw ++ readTrace 0x1B 1 avail' []))) ∧
    (avail.toNat < 3 →
      RunsTo .measp [a0, a1, a2, avail] (readTrace 0x04 3 avail []) s
        (fun rest => s.ended .measurement (readTrace 0x04 3 avail []) rest)))

/-- spec/43_configuration.md R264, R266, R268: each setter ORs its packed code into its register and ends
with ERR = NONE, or writes nothing and ends with CONFIGURATION where the read is short. RESULT is
unchanged, and no code is refused (R270). -/
def Obligations.SettersRunCumulatively : Prop :=
  ∀ (i : Instr) (reg code : Byte),
    ((∃ osrt osrp, i = .setosr osrt osrp ∧ reg = 0x1C ∧ code = 0#2 ++ osrt ++ osrp) ∨
     (∃ iir, i = .setiir iir ∧ reg = 0x1F ∧ code = 0#4 ++ iir ++ 0#1) ∨
     (∃ odr, i = .setodr odr ∧ reg = 0x1D ∧ code = 0#3 ++ odr)) →
    ∀ (a0 a1 a2 avail b c0 c1 c2 c3 : Byte) (s : State),
      (1 ≤ avail.toNat →
        RunsTo i [a0, a1, a2, avail, b, c0, c1, c2, c3]
          (readTrace reg 1 avail [b] ++ writeTrace reg (b ||| code)) s
          (fun rest => s.ended .none (readTrace reg 1 avail [b] ++ writeTrace reg (b ||| code)) rest)) ∧
      (avail.toNat = 0 →
        RunsTo i [a0, a1, a2, avail] (readTrace reg 1 avail []) s
          (fun rest => s.ended .configuration (readTrace reg 1 avail []) rest))

/-- spec/43_configuration.md R265, R267, R269: each getter returns its field above the raw byte in RESULT and
ends with ERR = NONE, or ends with CONFIGURATION and RESULT unchanged where the read is short. -/
def Obligations.GettersRunToFieldAndByte : Prop :=
  ∀ (i : Instr) (reg b : Byte) (value : BitVec 64),
    ((i = .getosr ∧ reg = 0x1C ∧ value = 0#50 ++ b.extractLsb' 0 6 ++ b) ∨
     (i = .getiir ∧ reg = 0x1F ∧ value = 0#53 ++ b.extractLsb' 1 3 ++ b) ∨
     (i = .getodr ∧ reg = 0x1D ∧ value = 0#51 ++ b.extractLsb' 0 5 ++ b)) →
    ∀ (a0 a1 a2 avail : Byte) (s : State),
      (1 ≤ avail.toNat →
        RunsTo i [a0, a1, a2, avail, b] (readTrace reg 1 avail [b]) s
          (fun rest => { s.ended .none (readTrace reg 1 avail [b]) rest with result := value })) ∧
      (avail.toNat = 0 →
        RunsTo i [a0, a1, a2, avail] (readTrace reg 1 avail []) s
          (fun rest => s.ended .configuration (readTrace reg 1 avail []) rest))

/-! ### Calibration cells and coefficients -/

/-- The cell table and its CSRs, row by row, laid end to end from 0x36 to 0x45 for P1 .. P11
(spec/41_calibration.md R180). -/
def Obligations.CellTableRows : Prop :=
  (List.finRange 14).map (fun k => ((cellRow k).addr, (cellRow k).width, (cellRow k).type)) =
    [(0x31, 2, .u16), (0x33, 2, .u16), (0x35, 1, .s8), (0x36, 2, .s16), (0x38, 2, .s16), (0x3A, 1, .s8),
     (0x3B, 1, .s8), (0x3C, 2, .u16), (0x3E, 2, .u16), (0x40, 1, .s8), (0x41, 1, .s8), (0x42, 2, .s16),
     (0x44, 1, .s8), (0x45, 1, .s8)] ∧
  ∀ k : Fin 14, csrAt (BitVec.ofNat 8 (0x20 + 4 * k.val)) = .cal k ∧
    csrAt (BitVec.ofNat 8 (0x60 + 4 * k.val)) = .coef k

/-- spec/41_calibration.md R181: the number a cell read decodes to, by type, `v` being the value of a read
of the cell's width; and its CSR view is that number in 32 bits (spec/10_state.md R47). -/
def Obligations.CellsDecodeByType : Prop :=
  (∀ v : BitVec 32, v.toNat < 65536 → cellInt .u16 (decodeCell .u16 v) = v.toNat) ∧
  (∀ v : BitVec 32, v.toNat < 65536 →
    cellInt .s16 (decodeCell .s16 v) = if v.toNat < 32768 then (v.toNat : Int) else v.toNat - 65536) ∧
  (∀ v : BitVec 32, v.toNat < 256 →
    cellInt .s8 (decodeCell .s8 v) = if v.toNat < 128 then (v.toNat : Int) else v.toNat - 256) ∧
  (∀ (ty : CellType) (v : BitVec 32), cellInRange ty (decodeCell ty v) = true) ∧
  (∀ (cal : Vector CellWord 14) (k : Fin 14),
    calView cal k = BitVec.ofInt 32 (cellInt (cellRow k).type cal[k]))

/-- spec/41_calibration.md R184: the mantissas, their ranges and the exponents of the 14 coefficients, and
COEF_k reads the mantissa as an s32 (spec/10_state.md R48). -/
def Obligations.CoefficientsAreExact : Prop :=
  ∀ cal : Vector CellWord 14,
    (List.finRange 14).map (fun k => (mantissa cal k, exponent k)) =
      ([((cal[0].toNat : Int), 8), ((cal[1].toNat : Int), -30), (cal[2].toInt, -48),
       (cal[3].toInt - 16384, -20), (cal[4].toInt - 16384, -29), (cal[5].toInt, -32), (cal[6].toInt, -37),
       ((cal[7].toNat : Int), 3), ((cal[8].toNat : Int), -6), (cal[9].toInt, -8), (cal[10].toInt, -15),
       (cal[11].toInt, -48), (cal[12].toInt, -48), (cal[13].toInt, -65)] : List (Int × Int)) ∧
    (∀ k : Fin 14, (coefView cal k).toInt = mantissa cal k) ∧
    (∀ k : Fin 14, coefficient cal k = (mantissa cal k : ℚ) * (2 : ℚ) ^ exponent k) ∧
    (calInRange cal = true →
      (∀ k ∈ ([0, 1, 7, 8] : List (Fin 14)), 0 ≤ mantissa cal k ∧ mantissa cal k ≤ 65535) ∧
      (∀ k ∈ ([2, 5, 6, 9, 10, 12, 13] : List (Fin 14)), -128 ≤ mantissa cal k ∧ mantissa cal k ≤ 127) ∧
      (∀ k ∈ ([3, 4] : List (Fin 14)), -49152 ≤ mantissa cal k ∧ mantissa cal k ≤ 16383) ∧
      (-32768 ≤ mantissa cal 11 ∧ mantissa cal 11 ≤ 32767))

/-! ### The datapath -/

/-- spec/00_scope.md R12: rnd(N, s) is the floor of (N + 2^(s-1)) / 2^s, which is N / 2^s rounded to the
nearest integer, a tie toward plus infinity. -/
def Obligations.RoundingIsNearestTiesUp : Prop :=
  ∀ (n : Int) (s : Nat), 1 ≤ s →
    rnd n s = ⌊((n + 2 ^ (s - 1) : Int) : ℚ) / 2 ^ s⌋ ∧
    -((2 : Int) ^ (s - 1)) ≤ n - rnd n s * 2 ^ s ∧ n - rnd n s * 2 ^ s < 2 ^ (s - 1)

/-- N_T is exactly `T_ideal(raw) * 2^48`, and TempComp is `T_ideal(raw) * 2^20` rounded to nearest, a tie
toward plus infinity, so within 2^-21 °C (spec/42_compensation.md R213, R214, R219). -/
def Obligations.TemperatureDatapathIsExact : Prop :=
  ∀ (cal : Vector CellWord 14) (raw : Raw),
    (tempN cal raw : ℚ) = tempIdeal cal raw * 2 ^ 48 ∧
    -(1 / 2 : ℚ) ≤ tempIdeal cal raw * 2 ^ 20 - tempComp cal raw ∧
    tempIdeal cal raw * 2 ^ 20 - tempComp cal raw < 1 / 2 ∧
    |(tempComp cal raw : ℚ) / 2 ^ 20 - tempIdeal cal raw| ≤ 1 / 2 ^ 21

/-- N_P is exactly `P_ideal(up, t / 2^20) * 2^97`, and PressComp is `P_ideal * 2^32` rounded to nearest, a
tie toward plus infinity, so within 2^-33 Pa (spec/42_compensation.md R215, R216, R219). -/
def Obligations.PressureDatapathIsExact : Prop :=
  ∀ (cal : Vector CellWord 14) (up : Raw) (t : Int),
    (pressN cal up t : ℚ) = pressIdeal cal up ((t : ℚ) / 2 ^ 20) * 2 ^ 97 ∧
    -(1 / 2 : ℚ) ≤ pressIdeal cal up ((t : ℚ) / 2 ^ 20) * 2 ^ 32 - pressComp cal up t ∧
    pressIdeal cal up ((t : ℚ) / 2 ^ 20) * 2 ^ 32 - pressComp cal up t < 1 / 2 ∧
    |(pressComp cal up t : ℚ) / 2 ^ 32 - pressIdeal cal up ((t : ℚ) / 2 ^ 20)| ≤ 1 / 2 ^ 33

/-- Every stage of the temperature unit fits its width (spec/42_compensation.md R213, R218). The literal in
N_T's bound is the greatest integer below 2^58.17. -/
def Obligations.TemperatureStagesFit : Prop :=
  ∀ (cal : Vector CellWord 14) (raw : Raw), calInRange cal = true →
    |tempD1 cal raw| ≤ 2 ^ 24 - 1 ∧
    |tempAcc cal raw| < 2 ^ 58 ∧
    (0 ≤ tempSq cal raw ∧ tempSq cal raw < 2 ^ 48) ∧
    |tempN cal raw| ≤ 324276030234530358 ∧
    |tempComp cal raw| ≤ 1207943088

/-- Every stage of the pressure unit fits its width, for every temperature the temperature unit produces
(spec/42_compensation.md R215, R218). The literals are the greatest integers below 2^97.7, 2^37.5, 2^85.6,
2^122.1 and 2^57.1, in this order. -/
def Obligations.PressureStagesFit : Prop :=
  ∀ (cal : Vector CellWord 14) (up : Raw) (t : Int), calInRange cal = true → |t| ≤ 1207943088 →
    (0 ≤ pressT2 t ∧ pressT2 t < 2 ^ 61) ∧
    |pressT3 t| < 2 ^ 91 ∧
    |pressO cal t| < 2 ^ 98 ∧
    |pressS cal t| ≤ 257413059444449913065539562421 ∧
    (0 ≤ pressU2 up ∧ pressU2 up < 2 ^ 48) ∧ (0 ≤ pressU3 up ∧ pressU3 up < 2 ^ 72) ∧
    |pressK cal t| ≤ 194368031998 ∧
    |pressQ cal up t| ≤ 58636444559105747074574566 ∧
    |pressN cal up t| ≤ 5698525166170306321203481813721597774 ∧
    |pressComp cal up t| ≤ 154458834128129156

/-- Values of spec/95_test_vectors.md sections 2.4 and 2.5 for calibration set A. -/
def Obligations.CalibrationSetAValues : Prop :=
  ∀ a : Vector CellWord 14,
    a = #v[27000, 19000, 0xFFF9, 0xFA88, 0xF5D8, 35, 2, 25000, 25600, 3, 0xFFFA, 16000, 8, 0xFFC4] →
    tempN a 8325000 = 7023803985000000 ∧ tempComp a 8325000 = 26165709 ∧ tempComp a 6911999 = -19 ∧
    tempComp a 0 = -129495850 ∧ pressComp a 6500000 26165709 = 412441278557025 ∧
    pressComp a 16777215 26165709 = -346832581027144 ∧ pressComp a 6500000 0 = 393908951140847

/-! ### Read-modify-write values -/

/-- The values SetBitRMW and FieldRMW write, bit by bit: no bit is ever cleared, ON = 0 changes nothing, and
field bits shifted above bit 7 are lost (spec/40_register_access.md R143, R144; spec/70_reset_and_hazards.md
R338, R342). -/
def Obligations.ReadModifyWriteNeverClears : Prop :=
  ∀ (old : Byte) (j : Nat), j < 8 →
    (∀ (pos : BitVec 3) (on : BitVec 1),
      (setBitValue old pos on).getLsbD j = (old.getLsbD j || (decide (j = pos.toNat) && decide (on = 1)))) ∧
    (∀ (sh : BitVec 3) (val : Byte),
      (fieldValue old sh val).getLsbD j =
        (old.getLsbD j || (decide (sh.toNat ≤ j) && val.getLsbD (j - sh.toNat))))

/-- Setting a configuration field whose bits are 0 and getting it back gives the code at its place and leaves
the register's other bits (spec/43_configuration.md R270); set twice, a field holds the OR of both codes
(spec/70_reset_and_hazards.md R338), stated for each of the four fields. -/
def Obligations.ConfigurationRoundTrip : Prop :=
  (∀ (b : Byte) (osrt osrp : BitVec 3), b.extractLsb' 0 6 = 0 →
    let b' := fieldValue b 0 (packOsr osrt osrp)
    (osrResult b').extractLsb' 8 3 = osrp ∧ (osrResult b').extractLsb' 11 3 = osrt ∧
      b'.extractLsb' 6 2 = b.extractLsb' 6 2) ∧
  (∀ (b : Byte) (iir : BitVec 3), b.extractLsb' 1 3 = 0 →
    let b' := fieldValue b 1 (iir.setWidth 8)
    (iirResult b').extractLsb' 8 3 = iir ∧ b'.extractLsb' 4 4 = b.extractLsb' 4 4 ∧
      b'.getLsbD 0 = b.getLsbD 0) ∧
  (∀ (b : Byte) (odr : BitVec 5), b.extractLsb' 0 5 = 0 →
    let b' := fieldValue b 0 (odr.setWidth 8)
    (odrResult b').extractLsb' 8 5 = odr ∧ b'.extractLsb' 5 3 = b.extractLsb' 5 3) ∧
  (∀ (b : Byte) (t p t' p' : BitVec 3),
    let b' := fieldValue (fieldValue b 0 (packOsr t p)) 0 (packOsr t' p')
    b'.extractLsb' 0 3 = b.extractLsb' 0 3 ||| p ||| p' ∧
      b'.extractLsb' 3 3 = b.extractLsb' 3 3 ||| t ||| t') ∧
  (∀ (b : Byte) (x y : BitVec 3),
    (fieldValue (fieldValue b 1 (x.setWidth 8)) 1 (y.setWidth 8)).extractLsb' 1 3 =
      b.extractLsb' 1 3 ||| x ||| y) ∧
  (∀ (b : Byte) (x y : BitVec 5),
    (fieldValue (fieldValue b 0 (x.setWidth 8)) 0 (y.setWidth 8)).extractLsb' 0 5 =
      b.extractLsb' 0 5 ||| x ||| y)

/-! ### The whole machine -/

/-- The state after reset satisfies the invariant. No clause of it speaks of STAGE or STAGE_OK there, whose
values after reset are the model's choice (log entry 2). -/
def Obligations.ResetSatisfiesInvariant : Prop := Inv State.reset

/-- Every step of every agent keeps the invariant: BUSY = 0 exactly when SEQ is IDLE (spec/10_state.md R34),
SEQ stays inside the command in CMDLAT, NO_ACK is never reported (spec/60_exceptions.md R293), CAL_OK stays
0..14 (spec/10_state.md R45), CAL holds values of its cells' types (R47), within LOADCAL's loop STAGE_OK
counts no more than the cells staged before and where it counts them all each is of its cell's type
(spec/41_calibration.md R182), and a valid TEMP belongs to a valid calibration and lies in the range of
spec/42_compensation.md R218. Outside that loop nothing is said of STAGE and STAGE_OK, so nothing rests on
their values after reset, the model's choice of log entry 2. -/
def Obligations.StepKeepsInvariant : Prop := ∀ s t : State, Inv s → step s = .next t → Inv t

/-- No step faults or is refused (spec/60_exceptions.md R290): nothing traps or halts the block. -/
def Obligations.NothingStopsTheMachine : Prop := ∀ s : State, Inv s → ∃ t, step s = .next t

/-- Every command ends: if the transport answers, a command in progress completes in at most 78 BCE steps,
the 77 bus primitives of a good LOADCAL and its finish (spec/70_reset_and_hazards.md R340). -/
def Obligations.EveryCommandEnds : Prop :=
  ∀ (s : State) (ds : List Byte) (rest : List Input), Inv s → s.status.busy = true →
    s.inputs = turns ds rest → 78 ≤ ds.length →
    ∃ n t, n ≤ 78 ∧ runSteps n s = .next t ∧ t.status.busy = false ∧ t.status.done = true ∧ t.seq = .idle

/-- CMDLAT is loaded only when a command is accepted, and by reset; while BUSY = 1 no host write changes it
(spec/10_state.md R33, spec/20_memory.md R97). -/
def Obligations.CommandLatchIsFrozenWhileBusy : Prop :=
  ∀ s t : State, step s = .next t →
    t.cmdlat = s.cmdlat ∨
    (∃ rest, s.inputs = .reset :: rest ∧ t.cmdlat = 0) ∨
    (∃ off w rest, s.inputs = .host (.write off w) :: rest ∧ off.toNat / 4 = 0 ∧ s.status.busy = false ∧
      t.cmdlat = w)

/-- Bus primitives are issued one at a time: a step adds at most one event to the trace, and only a BCE
step of an executing command that the transport answers does (spec/20_memory.md R94, spec/10_state.md R55). -/
def Obligations.OnePrimitivePerStep : Prop :=
  ∀ s t : State, step s = .next t →
    t.bus = s.bus ∨
    (s.status.busy = true ∧ t.status.busy = true ∧ ∃ d rest e,
      s.inputs = .bce d :: rest ∧ t.inputs = rest ∧ t.bus = s.bus ++ [e])

/-- RESULT, TEMP, CAL and STATUS, but for OVR, do not change between acceptance and completion: the new
values appear together in the step that clears BUSY (spec/10_state.md R36, spec/70_reset_and_hazards.md
R334). -/
def Obligations.WritesAppearAtCompletion : Prop :=
  ∀ s t : State, step s = .next t → s.status.busy = true → t.status.busy = true →
    t.result = s.result ∧ t.temp = s.temp ∧ t.cal = s.cal ∧
    t.status = { s.status with ovr := t.status.ovr }

/-- Each piece of the block's results is written by its own commands and by reset alone: TEMP by a successful
COMPT or MEAST (spec/10_state.md R43), CAL by a successful LOADCAL (R47), CAL_VALID and CAL_OK by LOADCAL
(R40, R45), T_VALID by COMPT, MEAST and LOADCAL (R41), RESULT by the eight commands of R46 where they succeed.
A step that changes one of them is the completion of such a command. -/
def Obligations.OnlyTheirCommandsWriteResults : Prop :=
  ∀ s t : State, step s = .next t → (∀ rest, s.inputs ≠ .reset :: rest) →
    let completes : Prop :=
      s.status.busy = true ∧ t.status.busy = false ∧ t.status.done = true ∧ t.seq = .idle
    (t.temp ≠ s.temp → completes ∧ t.status.err = .none ∧
      ((∃ raw, s.command = .ok (.compt raw)) ∨ s.command = .ok .meast)) ∧
    (t.cal ≠ s.cal → completes ∧ t.status.err = .none ∧ s.command = .ok .loadcal) ∧
    (t.status.calValid ≠ s.status.calValid → completes ∧ s.command = .ok .loadcal) ∧
    (t.status.calOk ≠ s.status.calOk → completes ∧ s.command = .ok .loadcal) ∧
    (t.status.tValid ≠ s.status.tValid → completes ∧
      ((t.status.tValid = true ∧ t.status.err = .none ∧
        ((∃ raw, s.command = .ok (.compt raw)) ∨ s.command = .ok .meast)) ∨
      (t.status.tValid = false ∧ s.command = .ok .loadcal))) ∧
    (t.result ≠ s.result → completes ∧ t.status.err = .none ∧
      ((∃ w reg, s.command = .ok (.read w reg)) ∨ s.command = .ok .getosr ∨ s.command = .ok .getiir ∨
        s.command = .ok .getodr ∨ (∃ raw, s.command = .ok (.compt raw)) ∨
        (∃ raw, s.command = .ok (.compp raw)) ∨ s.command = .ok .meast ∨ s.command = .ok .measp))

/-- A host step during a command changes no block state but OVR (spec/10_state.md R55). -/
def Obligations.HostStepsLeaveTheCommandAlone : Prop :=
  ∀ (s t : State) (a : HostAct) (rest : List Input), s.status.busy = true → s.inputs = .host a :: rest →
    step s = .next t →
    t = { s with
      inputs := rest, hostLog := t.hostLog, status := { s.status with ovr := t.status.ovr } }

/-- The assembler produces no word for a line with an operand out of its field's range, and for each line in
range the word of spec/30_encoding.md R118: OPC in bits 31..28 and each operand at its field's place (R111,
R112). READ8 to READ32, INIT, MEASURE and SETFLAG expand as R119 says, for every operand. Every word
produced spells a command. -/
def Obligations.AssemblerProducesOnlyCommands : Prop :=
  let word (n : Nat) : Option (List HostOp) := some [.submit (BitVec.ofNat 32 n)]
  (∀ a : AsmLine, assembleLine a = none ↔ a.wellFormed = false) ∧
  (∀ n reg : Nat, 1 ≤ n → n ≤ 4 → reg < 256 →
    assembleLine (.read n reg) = word (0x1 * 2 ^ 28 + (n - 1) * 2 ^ 24 + reg)) ∧
  (∀ reg val : Nat, reg < 256 → val < 256 →
    assembleLine (.write reg val) = word (0x2 * 2 ^ 28 + val * 2 ^ 8 + reg)) ∧
  (∀ reg bit on : Nat, reg < 256 → bit < 8 → on < 2 →
    assembleLine (.setbit reg bit on) = word (0x3 * 2 ^ 28 + on * 2 ^ 19 + bit * 2 ^ 16 + reg)) ∧
  (∀ reg shift val : Nat, reg < 256 → shift < 8 → val < 256 →
    assembleLine (.wfield reg shift val) = word (0x4 * 2 ^ 28 + shift * 2 ^ 16 + val * 2 ^ 8 + reg)) ∧
  assembleLine .loadcal = word (0x5 * 2 ^ 28) ∧
  (∀ raw : Nat, raw < 2 ^ 24 → assembleLine (.compt raw) = word (0x6 * 2 ^ 28 + raw)) ∧
  (∀ raw : Nat, raw < 2 ^ 24 → assembleLine (.compp raw) = word (0x7 * 2 ^ 28 + raw)) ∧
  assembleLine .meast = word (0x8 * 2 ^ 28) ∧
  assembleLine .measp = word (0x9 * 2 ^ 28) ∧
  (∀ osrP osrT : Nat, osrP < 8 → osrT < 8 →
    assembleLine (.setosr osrP osrT) = word (0xA * 2 ^ 28 + osrT * 2 ^ 3 + osrP)) ∧
  assembleLine .getosr = word (0xB * 2 ^ 28) ∧
  (∀ code : Nat, code < 8 → assembleLine (.setiir code) = word (0xC * 2 ^ 28 + code)) ∧
  assembleLine .getiir = word (0xD * 2 ^ 28) ∧
  (∀ code : Nat, code < 32 → assembleLine (.setodr code) = word (0xE * 2 ^ 28 + code)) ∧
  assembleLine .getodr = word (0xF * 2 ^ 28) ∧
  (∀ reg : Nat, assembleLine (.read8 reg) = assembleLine (.read 1 reg) ∧
    assembleLine (.read16 reg) = assembleLine (.read 2 reg) ∧
    assembleLine (.read24 reg) = assembleLine (.read 3 reg) ∧
    assembleLine (.read32 reg) = assembleLine (.read 4 reg)) ∧
  assembleLine .init = assembleLine .loadcal ∧
  assembleLine .measure = some [.submit 0x80000000, .wait, .submit 0x90000000] ∧
  (∀ reg bit : Nat, assembleLine (.setflag reg bit) = assembleLine (.setbit reg bit 1)) ∧
  (∀ (a : AsmLine) (ops : List HostOp), assembleLine a = some ops →
    ∀ w, HostOp.submit w ∈ ops → ∃ i, decode w = .ok i)

/-- STAGE and STAGE_OK change in the BCE step that follows a cell's read, with the next cell's first bus
primitive, and not in the steps of the read itself (spec/10_state.md R55, spec/41_calibration.md R182); by no
other step but LOADCAL's first, which clears STAGE_OK, LOADCAL's last, and reset. The local variables in the
SEQ position are the model's own (log entry 5). That STAGE and STAGE_OK keep LOADCAL's last values after it
ends, until reset or the next LOADCAL, is the model's choice: spec/10_state.md R53 leaves them open between
commands (log entry 17). -/
def Obligations.StagingBelongsToTheNextStep : Prop :=
  (∀ (s : State) (k : Fin 14) (r : Option (BitVec 32)) (h : k.val + 1 < 14) (d : Byte) (rest : List Input),
    s.seq = .afterCell k r → s.inputs = .bce d :: rest →
    exec .loadcal s = .next { s with
      inputs := rest
      bus := s.bus ++ [.busBegin Config.devAddr]
      seq := .cell ⟨k.val + 1, h⟩ .reg Locals.init
      stage := match r with
        | some v => s.stage.set k (decodeCell (cellRow k).type v)
        | none => s.stage
      stageOk := match r with
        | some _ => s.stageOk + 1
        | none => s.stageOk }) ∧
  (∀ (s t : State), step s = .next t → (∀ rest, s.inputs ≠ .reset :: rest) →
    (t.stage ≠ s.stage → s.command = .ok .loadcal ∧ ∃ k v, s.seq = .afterCell k (some v)) ∧
    (t.stageOk ≠ s.stageOk → s.command = .ok .loadcal ∧
      (s.seq = .start ∨ ∃ k v, s.seq = .afterCell k (some v))))
end

