-- ==== Sys2Proof/Laws/State.lean ====
section
/-! SUPPORT. One lemma per field per update of State, each true by rfl, so that no proof unfolds a record
update. -/

namespace Sys2Proof.Machine

/-! ### State.takeTurn -/

@[simp] theorem State.takeTurn_cmdlat (s : State) : (s.takeTurn).cmdlat = s.cmdlat := rfl
@[simp] theorem State.takeTurn_seq (s : State) : (s.takeTurn).seq = s.seq := rfl
@[simp] theorem State.takeTurn_status (s : State) : (s.takeTurn).status = s.status := rfl
@[simp] theorem State.takeTurn_result (s : State) : (s.takeTurn).result = s.result := rfl
@[simp] theorem State.takeTurn_temp (s : State) : (s.takeTurn).temp = s.temp := rfl
@[simp] theorem State.takeTurn_cal (s : State) : (s.takeTurn).cal = s.cal := rfl
@[simp] theorem State.takeTurn_stage (s : State) : (s.takeTurn).stage = s.stage := rfl
@[simp] theorem State.takeTurn_stageOk (s : State) : (s.takeTurn).stageOk = s.stageOk := rfl
@[simp] theorem State.takeTurn_inputs (s : State) : (s.takeTurn).inputs = afterTurn s.inputs := rfl
@[simp] theorem State.takeTurn_bus (s : State) : (s.takeTurn).bus = s.bus := rfl
@[simp] theorem State.takeTurn_hostLog (s : State) : (s.takeTurn).hostLog = s.hostLog := rfl

/-! ### State.emit -/

@[simp] theorem State.emit_cmdlat (s : State) (e : BusEvent) : (s.emit e).cmdlat = s.cmdlat := rfl
@[simp] theorem State.emit_seq (s : State) (e : BusEvent) : (s.emit e).seq = s.seq := rfl
@[simp] theorem State.emit_status (s : State) (e : BusEvent) : (s.emit e).status = s.status := rfl
@[simp] theorem State.emit_result (s : State) (e : BusEvent) : (s.emit e).result = s.result := rfl
@[simp] theorem State.emit_temp (s : State) (e : BusEvent) : (s.emit e).temp = s.temp := rfl
@[simp] theorem State.emit_cal (s : State) (e : BusEvent) : (s.emit e).cal = s.cal := rfl
@[simp] theorem State.emit_stage (s : State) (e : BusEvent) : (s.emit e).stage = s.stage := rfl
@[simp] theorem State.emit_stageOk (s : State) (e : BusEvent) : (s.emit e).stageOk = s.stageOk := rfl
@[simp] theorem State.emit_inputs (s : State) (e : BusEvent) : (s.emit e).inputs = s.inputs := rfl
@[simp] theorem State.emit_bus (s : State) (e : BusEvent) : (s.emit e).bus = s.bus ++ [e] := rfl
@[simp] theorem State.emit_hostLog (s : State) (e : BusEvent) : (s.emit e).hostLog = s.hostLog := rfl

/-! ### State.goto -/

@[simp] theorem State.goto_cmdlat (s : State) (q : Seq) : (s.goto q).cmdlat = s.cmdlat := rfl
@[simp] theorem State.goto_seq (s : State) (q : Seq) : (s.goto q).seq = q := rfl
@[simp] theorem State.goto_status (s : State) (q : Seq) : (s.goto q).status = s.status := rfl
@[simp] theorem State.goto_result (s : State) (q : Seq) : (s.goto q).result = s.result := rfl
@[simp] theorem State.goto_temp (s : State) (q : Seq) : (s.goto q).temp = s.temp := rfl
@[simp] theorem State.goto_cal (s : State) (q : Seq) : (s.goto q).cal = s.cal := rfl
@[simp] theorem State.goto_stage (s : State) (q : Seq) : (s.goto q).stage = s.stage := rfl
@[simp] theorem State.goto_stageOk (s : State) (q : Seq) : (s.goto q).stageOk = s.stageOk := rfl
@[simp] theorem State.goto_inputs (s : State) (q : Seq) : (s.goto q).inputs = s.inputs := rfl
@[simp] theorem State.goto_bus (s : State) (q : Seq) : (s.goto q).bus = s.bus := rfl
@[simp] theorem State.goto_hostLog (s : State) (q : Seq) : (s.goto q).hostLog = s.hostLog := rfl

/-! ### State.commit -/

@[simp] theorem State.commit_cmdlat (s : State) (w : Writes) : (s.commit w).cmdlat = s.cmdlat := rfl
@[simp] theorem State.commit_seq (s : State) (w : Writes) : (s.commit w).seq = s.seq := rfl
@[simp] theorem State.commit_status (s : State) (w : Writes) :
    (s.commit w).status =
      { s.status with tValid := w.tValid.getD s.status.tValid, calValid := w.calValid.getD s.status.calValid, calOk := w.calOk.getD s.status.calOk } := rfl
@[simp] theorem State.commit_result (s : State) (w : Writes) :
    (s.commit w).result =
      w.result.getD s.result := rfl
@[simp] theorem State.commit_temp (s : State) (w : Writes) : (s.commit w).temp = w.temp.getD s.temp := rfl
@[simp] theorem State.commit_cal (s : State) (w : Writes) : (s.commit w).cal = w.cal.getD s.cal := rfl
@[simp] theorem State.commit_stage (s : State) (w : Writes) : (s.commit w).stage = s.stage := rfl
@[simp] theorem State.commit_stageOk (s : State) (w : Writes) : (s.commit w).stageOk = s.stageOk := rfl
@[simp] theorem State.commit_inputs (s : State) (w : Writes) : (s.commit w).inputs = s.inputs := rfl
@[simp] theorem State.commit_bus (s : State) (w : Writes) : (s.commit w).bus = s.bus := rfl
@[simp] theorem State.commit_hostLog (s : State) (w : Writes) : (s.commit w).hostLog = s.hostLog := rfl

/-! ### State.complete -/

@[simp] theorem State.complete_cmdlat (s : State) (c : ErrCode) : (s.complete c).cmdlat = s.cmdlat := rfl
@[simp] theorem State.complete_seq (s : State) (c : ErrCode) : (s.complete c).seq = .idle := rfl
@[simp] theorem State.complete_status (s : State) (c : ErrCode) :
    (s.complete c).status =
      { s.status with err := c, busy := false, done := true } := rfl
@[simp] theorem State.complete_result (s : State) (c : ErrCode) : (s.complete c).result = s.result := rfl
@[simp] theorem State.complete_temp (s : State) (c : ErrCode) : (s.complete c).temp = s.temp := rfl
@[simp] theorem State.complete_cal (s : State) (c : ErrCode) : (s.complete c).cal = s.cal := rfl
@[simp] theorem State.complete_stage (s : State) (c : ErrCode) : (s.complete c).stage = s.stage := rfl
@[simp] theorem State.complete_stageOk (s : State) (c : ErrCode) : (s.complete c).stageOk = s.stageOk := rfl
@[simp] theorem State.complete_inputs (s : State) (c : ErrCode) : (s.complete c).inputs = s.inputs := rfl
@[simp] theorem State.complete_bus (s : State) (c : ErrCode) : (s.complete c).bus = s.bus := rfl
@[simp] theorem State.complete_hostLog (s : State) (c : ErrCode) : (s.complete c).hostLog = s.hostLog := rfl

/-! ### State.accept -/

@[simp] theorem State.accept_cmdlat (s : State) (w : Word) : (s.accept w).cmdlat = w := rfl
@[simp] theorem State.accept_seq (s : State) (w : Word) : (s.accept w).seq = .start := rfl
@[simp] theorem State.accept_status (s : State) (w : Word) :
    (s.accept w).status =
      { s.status with busy := true, done := false } := rfl
@[simp] theorem State.accept_result (s : State) (w : Word) : (s.accept w).result = s.result := rfl
@[simp] theorem State.accept_temp (s : State) (w : Word) : (s.accept w).temp = s.temp := rfl
@[simp] theorem State.accept_cal (s : State) (w : Word) : (s.accept w).cal = s.cal := rfl
@[simp] theorem State.accept_stage (s : State) (w : Word) : (s.accept w).stage = s.stage := rfl
@[simp] theorem State.accept_stageOk (s : State) (w : Word) : (s.accept w).stageOk = s.stageOk := rfl
@[simp] theorem State.accept_inputs (s : State) (w : Word) : (s.accept w).inputs = s.inputs := rfl
@[simp] theorem State.accept_bus (s : State) (w : Word) : (s.accept w).bus = s.bus := rfl
@[simp] theorem State.accept_hostLog (s : State) (w : Word) : (s.accept w).hostLog = s.hostLog := rfl

/-! ### State.assertReset -/

@[simp] theorem State.assertReset_cmdlat (s : State) : (s.assertReset).cmdlat = 0 := rfl
@[simp] theorem State.assertReset_seq (s : State) : (s.assertReset).seq = .idle := rfl
@[simp] theorem State.assertReset_status (s : State) : (s.assertReset).status = Status.reset := rfl
@[simp] theorem State.assertReset_result (s : State) : (s.assertReset).result = 0 := rfl
@[simp] theorem State.assertReset_temp (s : State) : (s.assertReset).temp = 0 := rfl
@[simp] theorem State.assertReset_cal (s : State) : (s.assertReset).cal = Vector.replicate 14 0 := rfl
@[simp] theorem State.assertReset_stage (s : State) : (s.assertReset).stage = Vector.replicate 14 0 := rfl
@[simp] theorem State.assertReset_stageOk (s : State) : (s.assertReset).stageOk = 0 := rfl
@[simp] theorem State.assertReset_inputs (s : State) : (s.assertReset).inputs = s.inputs := rfl
@[simp] theorem State.assertReset_bus (s : State) : (s.assertReset).bus = s.bus := rfl
@[simp] theorem State.assertReset_hostLog (s : State) : (s.assertReset).hostLog = s.hostLog := rfl

/-! ### State.clearStageOk -/

@[simp] theorem State.clearStageOk_cmdlat (s : State) : (s.clearStageOk).cmdlat = s.cmdlat := rfl
@[simp] theorem State.clearStageOk_seq (s : State) : (s.clearStageOk).seq = s.seq := rfl
@[simp] theorem State.clearStageOk_status (s : State) : (s.clearStageOk).status = s.status := rfl
@[simp] theorem State.clearStageOk_result (s : State) : (s.clearStageOk).result = s.result := rfl
@[simp] theorem State.clearStageOk_temp (s : State) : (s.clearStageOk).temp = s.temp := rfl
@[simp] theorem State.clearStageOk_cal (s : State) : (s.clearStageOk).cal = s.cal := rfl
@[simp] theorem State.clearStageOk_stage (s : State) : (s.clearStageOk).stage = s.stage := rfl
@[simp] theorem State.clearStageOk_stageOk (s : State) : (s.clearStageOk).stageOk = 0 := rfl
@[simp] theorem State.clearStageOk_inputs (s : State) : (s.clearStageOk).inputs = s.inputs := rfl
@[simp] theorem State.clearStageOk_bus (s : State) : (s.clearStageOk).bus = s.bus := rfl
@[simp] theorem State.clearStageOk_hostLog (s : State) : (s.clearStageOk).hostLog = s.hostLog := rfl

/-! ### State.stageCell -/

@[simp] theorem State.stageCell_cmdlat (s : State) (k : Fin 14) (v : BitVec 32) :
    (s.stageCell k v).cmdlat =
      s.cmdlat := rfl
@[simp] theorem State.stageCell_seq (s : State) (k : Fin 14) (v : BitVec 32) :
    (s.stageCell k v).seq =
      s.seq := rfl
@[simp] theorem State.stageCell_status (s : State) (k : Fin 14) (v : BitVec 32) :
    (s.stageCell k v).status =
      s.status := rfl
@[simp] theorem State.stageCell_result (s : State) (k : Fin 14) (v : BitVec 32) :
    (s.stageCell k v).result =
      s.result := rfl
@[simp] theorem State.stageCell_temp (s : State) (k : Fin 14) (v : BitVec 32) :
    (s.stageCell k v).temp =
      s.temp := rfl
@[simp] theorem State.stageCell_cal (s : State) (k : Fin 14) (v : BitVec 32) :
    (s.stageCell k v).cal =
      s.cal := rfl
@[simp] theorem State.stageCell_stage (s : State) (k : Fin 14) (v : BitVec 32) :
    (s.stageCell k v).stage =
      s.stage.set k (decodeCell (cellRow k).type v) := rfl
@[simp] theorem State.stageCell_stageOk (s : State) (k : Fin 14) (v : BitVec 32) :
    (s.stageCell k v).stageOk =
      s.stageOk + 1 := rfl
@[simp] theorem State.stageCell_inputs (s : State) (k : Fin 14) (v : BitVec 32) :
    (s.stageCell k v).inputs =
      s.inputs := rfl
@[simp] theorem State.stageCell_bus (s : State) (k : Fin 14) (v : BitVec 32) :
    (s.stageCell k v).bus =
      s.bus := rfl
@[simp] theorem State.stageCell_hostLog (s : State) (k : Fin 14) (v : BitVec 32) :
    (s.stageCell k v).hostLog =
      s.hostLog := rfl

/-! ### State.stageResult -/

@[simp] theorem State.stageResult_some (s : State) (k : Fin 14) (v : BitVec 32) :
    s.stageResult k (some v) = s.stageCell k v := rfl
@[simp] theorem State.stageResult_none (s : State) (k : Fin 14) : s.stageResult k none = s := rfl
@[simp] theorem State.stageResult_cmdlat (s : State) (k : Fin 14) (r : Option (BitVec 32)) :
    (s.stageResult k r).cmdlat = s.cmdlat := by cases r <;> rfl
@[simp] theorem State.stageResult_seq (s : State) (k : Fin 14) (r : Option (BitVec 32)) :
    (s.stageResult k r).seq = s.seq := by cases r <;> rfl
@[simp] theorem State.stageResult_status (s : State) (k : Fin 14) (r : Option (BitVec 32)) :
    (s.stageResult k r).status = s.status := by cases r <;> rfl
@[simp] theorem State.stageResult_result (s : State) (k : Fin 14) (r : Option (BitVec 32)) :
    (s.stageResult k r).result = s.result := by cases r <;> rfl
@[simp] theorem State.stageResult_temp (s : State) (k : Fin 14) (r : Option (BitVec 32)) :
    (s.stageResult k r).temp = s.temp := by cases r <;> rfl
@[simp] theorem State.stageResult_cal (s : State) (k : Fin 14) (r : Option (BitVec 32)) :
    (s.stageResult k r).cal = s.cal := by cases r <;> rfl
@[simp] theorem State.stageResult_inputs (s : State) (k : Fin 14) (r : Option (BitVec 32)) :
    (s.stageResult k r).inputs = s.inputs := by cases r <;> rfl
@[simp] theorem State.stageResult_bus (s : State) (k : Fin 14) (r : Option (BitVec 32)) :
    (s.stageResult k r).bus = s.bus := by cases r <;> rfl
@[simp] theorem State.stageResult_hostLog (s : State) (k : Fin 14) (r : Option (BitVec 32)) :
    (s.stageResult k r).hostLog = s.hostLog := by cases r <;> rfl

/-! ### State.popInput -/

@[simp] theorem State.popInput_cmdlat (s : State) : (s.popInput).cmdlat = s.cmdlat := rfl
@[simp] theorem State.popInput_seq (s : State) : (s.popInput).seq = s.seq := rfl
@[simp] theorem State.popInput_status (s : State) : (s.popInput).status = s.status := rfl
@[simp] theorem State.popInput_result (s : State) : (s.popInput).result = s.result := rfl
@[simp] theorem State.popInput_temp (s : State) : (s.popInput).temp = s.temp := rfl
@[simp] theorem State.popInput_cal (s : State) : (s.popInput).cal = s.cal := rfl
@[simp] theorem State.popInput_stage (s : State) : (s.popInput).stage = s.stage := rfl
@[simp] theorem State.popInput_stageOk (s : State) : (s.popInput).stageOk = s.stageOk := rfl
@[simp] theorem State.popInput_inputs (s : State) : (s.popInput).inputs = s.inputs.tail := rfl
@[simp] theorem State.popInput_bus (s : State) : (s.popInput).bus = s.bus := rfl
@[simp] theorem State.popInput_hostLog (s : State) : (s.popInput).hostLog = s.hostLog := rfl

/-! ### State.hostRead -/

@[simp] theorem State.hostRead_cmdlat (s : State) (off : BitVec 8) : (s.hostRead off).cmdlat = s.cmdlat := rfl
@[simp] theorem State.hostRead_seq (s : State) (off : BitVec 8) : (s.hostRead off).seq = s.seq := rfl
@[simp] theorem State.hostRead_status (s : State) (off : BitVec 8) : (s.hostRead off).status = s.status := rfl
@[simp] theorem State.hostRead_result (s : State) (off : BitVec 8) : (s.hostRead off).result = s.result := rfl
@[simp] theorem State.hostRead_temp (s : State) (off : BitVec 8) : (s.hostRead off).temp = s.temp := rfl
@[simp] theorem State.hostRead_cal (s : State) (off : BitVec 8) : (s.hostRead off).cal = s.cal := rfl
@[simp] theorem State.hostRead_stage (s : State) (off : BitVec 8) : (s.hostRead off).stage = s.stage := rfl
@[simp] theorem State.hostRead_stageOk (s : State) (off : BitVec 8) :
    (s.hostRead off).stageOk =
      s.stageOk := rfl
@[simp] theorem State.hostRead_inputs (s : State) (off : BitVec 8) : (s.hostRead off).inputs = s.inputs := rfl
@[simp] theorem State.hostRead_bus (s : State) (off : BitVec 8) : (s.hostRead off).bus = s.bus := rfl
@[simp] theorem State.hostRead_hostLog (s : State) (off : BitVec 8) :
    (s.hostRead off).hostLog =
      s.hostLog ++ [(off, s.csrValue (csrAt off))] := rfl

end Sys2Proof.Machine
end

