-- ==== Sys2Proof/Laws/Ops.lean ====
section
/-! SUPPORT. What each shared operation can do, said once: later proofs cite these lemmas and do not
unfold the operations. -/

namespace Sys2Proof.Machine

/-! ### Turns -/

@[simp] theorem afterTurn_bce (d : Byte) (rest : List Input) : afterTurn (.bce d :: rest) = rest := rfl
@[simp] theorem afterTurn_nil : afterTurn [] = [] := rfl
@[simp] theorem firstAnswer_bce (d : Byte) (rest : List Input) : firstAnswer (.bce d :: rest) = some d := rfl
@[simp] theorem firstAnswer_nil : firstAnswer [] = none := rfl

/-- Where the transport has an answer, the turn is the first input. -/
theorem firstAnswer_eq_some {l : List Input} {d : Byte} (h : firstAnswer l = some d) :
    l = .bce d :: afterTurn l := by
  cases l with
  | nil => simp [firstAnswer] at h
  | cons a rest => cases a <;> simp_all [firstAnswer, afterTurn]

/-! ### One bus primitive -/

/-- A bus primitive that the transport does not complete leaves everything as it is. -/
theorem issue_stalled {ev : Byte → BusEvent} {k : Byte → State → State} {s : State}
    (h : firstAnswer s.inputs = none) : issue ev k s = .next s := by simp [issue, h]

/-- A completed bus primitive takes the turn, joins the trace and goes on with the answer. -/
theorem issue_answered {ev : Byte → BusEvent} {k : Byte → State → State} {s : State} {d : Byte}
    (h : firstAnswer s.inputs = some d) : issue ev k s = .next (k d (s.takeTurn.emit (ev d))) := by
  simp [issue, h]

/-- All that a bus primitive can do. -/
theorem issue_cases {ev : Byte → BusEvent} {k : Byte → State → State} {s t : State}
    (h : issue ev k s = .next t) :
    (firstAnswer s.inputs = none ∧ t = s) ∨
      ∃ d, firstAnswer s.inputs = some d ∧ t = k d (s.takeTurn.emit (ev d)) := by
  cases hd : firstAnswer s.inputs with
  | none =>
    rw [issue_stalled hd] at h
    injection h with h
    exact .inl ⟨rfl, h.symm⟩
  | some d =>
    rw [issue_answered hd] at h
    injection h with h
    exact .inr ⟨d, rfl, h.symm⟩

/-- A bus primitive always gives a next state. -/
theorem issue_next (ev : Byte → BusEvent) (k : Byte → State → State) (s : State) :
    ∃ t, issue ev k s = .next t := by
  cases hd : firstAnswer s.inputs with
  | none => exact ⟨s, issue_stalled hd⟩
  | some d => exact ⟨_, issue_answered hd⟩

/-! ### Ending a command -/

theorem finish_eq (c : ErrCode) (w : Writes) (s : State) :
    finish c w s = .next ((s.takeTurn.commit w).complete c) := rfl

theorem raiseError_eq (c : ErrCode) (w : Writes) (s : State) : raiseError c w s = finish c w s := rfl

/-! ### Register accesses -/

/-- A register read always gives a next state. -/
theorem memRead_next (at' : ReadPos → Locals → Seq) (reg : Byte) (n : Nat)
    (ok short : Locals → State → State) (p : ReadPos) (l : Locals) (s : State) :
    ∃ t, memRead at' reg n ok short p l s = .next t := by
  cases p <;> simp only [memRead] <;> exact issue_next _ _ _

/-- All that one step of a register read can do: wait, move on inside the read, fail at the count, or end
with its value. -/
theorem memRead_cases {at' : ReadPos → Locals → Seq} {reg : Byte} {n : Nat}
    {ok short : Locals → State → State} {p : ReadPos} {l : Locals} {s t : State}
    (h : memRead at' reg n ok short p l s = .next t) :
    (firstAnswer s.inputs = none ∧ t = s) ∨
    ∃ d, firstAnswer s.inputs = some d ∧
      ((p = .start ∧ t = (s.takeTurn.emit (.busBegin Config.devAddr)).goto (at' .reg l)) ∨
       (p = .reg ∧ t = (s.takeTurn.emit (.busWrite reg)).goto (at' .stop l)) ∨
       (p = .stop ∧ t = (s.takeTurn.emit .busEnd).goto (at' .request l)) ∨
       (p = .request ∧ d.toNat < n ∧ t = short l (s.takeTurn.emit (.busRequest Config.devAddr n d))) ∨
       (p = .request ∧ n ≤ d.toNat ∧
         t = (s.takeTurn.emit (.busRequest Config.devAddr n d)).goto (at' (.byte 0) { l with v := 0 })) ∨
       (∃ i, p = .byte i ∧ i + 1 < n ∧
         t = (s.takeTurn.emit (.busRead d)).goto
           (at' (.byte (i + 1)) { l with v := assembleByte l.v i d })) ∨
       (∃ i, p = .byte i ∧ n ≤ i + 1 ∧
         t = ok { l with v := assembleByte l.v i d } (s.takeTurn.emit (.busRead d)))) := by
  cases p with
  | start =>
    simp only [memRead] at h
    obtain h | ⟨d, hd, ht⟩ := issue_cases h
    · exact .inl h
    · exact .inr ⟨d, hd, .inl ⟨rfl, ht⟩⟩
  | reg =>
    simp only [memRead] at h
    obtain h | ⟨d, hd, ht⟩ := issue_cases h
    · exact .inl h
    · exact .inr ⟨d, hd, .inr (.inl ⟨rfl, ht⟩)⟩
  | stop =>
    simp only [memRead] at h
    obtain h | ⟨d, hd, ht⟩ := issue_cases h
    · exact .inl h
    · exact .inr ⟨d, hd, .inr (.inr (.inl ⟨rfl, ht⟩))⟩
  | request =>
    simp only [memRead] at h
    obtain h | ⟨d, hd, ht⟩ := issue_cases h
    · exact .inl h
    · refine .inr ⟨d, hd, ?_⟩
      by_cases hn : d.toNat < n
      · exact .inr (.inr (.inr (.inl ⟨rfl, hn, by simpa [hn] using ht⟩)))
      · exact .inr (.inr (.inr (.inr (.inl ⟨rfl, by omega, by simpa [hn] using ht⟩))))
  | byte i =>
    simp only [memRead] at h
    obtain h | ⟨d, hd, ht⟩ := issue_cases h
    · exact .inl h
    · refine .inr ⟨d, hd, ?_⟩
      by_cases hn : i + 1 < n
      · exact .inr (.inr (.inr (.inr (.inr (.inl ⟨i, rfl, hn, by simpa [hn] using ht⟩)))))
      · exact .inr (.inr (.inr (.inr (.inr (.inr ⟨i, rfl, by omega, by simpa [hn] using ht⟩)))))

/-- A register write always gives a next state. -/
theorem memWrite_next (reg v : Byte) (nxt : Locals → Seq) (p : WritePos) (l : Locals) (s : State) :
    ∃ t, memWrite reg v nxt p l s = .next t := by
  cases p <;> simp only [memWrite] <;> exact issue_next _ _ _

/-- All that one step of a register write can do. -/
theorem memWrite_cases {reg v : Byte} {nxt : Locals → Seq} {p : WritePos} {l : Locals} {s t : State}
    (h : memWrite reg v nxt p l s = .next t) :
    (firstAnswer s.inputs = none ∧ t = s) ∨
    ∃ d, firstAnswer s.inputs = some d ∧
      ((p = .start ∧ t = (s.takeTurn.emit (.busBegin Config.devAddr)).goto (.write .reg l)) ∨
       (p = .reg ∧ t = (s.takeTurn.emit (.busWrite reg)).goto (.write .val l)) ∨
       (p = .val ∧ t = (s.takeTurn.emit (.busWrite v)).goto (.write .stop l)) ∨
       (p = .stop ∧ t = (s.takeTurn.emit .busEnd).goto (nxt l))) := by
  cases p with
  | start =>
    simp only [memWrite] at h
    obtain h | ⟨d, hd, ht⟩ := issue_cases h
    · exact .inl h
    · exact .inr ⟨d, hd, .inl ⟨rfl, ht⟩⟩
  | reg =>
    simp only [memWrite] at h
    obtain h | ⟨d, hd, ht⟩ := issue_cases h
    · exact .inl h
    · exact .inr ⟨d, hd, .inr (.inl ⟨rfl, ht⟩)⟩
  | val =>
    simp only [memWrite] at h
    obtain h | ⟨d, hd, ht⟩ := issue_cases h
    · exact .inl h
    · exact .inr ⟨d, hd, .inr (.inr (.inl ⟨rfl, ht⟩))⟩
  | stop =>
    simp only [memWrite] at h
    obtain h | ⟨d, hd, ht⟩ := issue_cases h
    · exact .inl h
    · exact .inr ⟨d, hd, .inr (.inr (.inr ⟨rfl, ht⟩))⟩

/-! ### The checks of the compensation commands -/

theorem whenCalibrated_true {body : State → Outcome} {s : State} (h : s.status.calValid = true) :
    whenCalibrated body s = body s := by simp [whenCalibrated, h]

theorem whenCalibrated_false {body : State → Outcome} {s : State} (h : s.status.calValid = false) :
    whenCalibrated body s = finish .notCalibrated {} s := by
  simp [whenCalibrated, h, raiseError_eq]

theorem whenTemperature_true {body : State → Outcome} {s : State} (h : s.status.calValid = true)
    (ht : s.status.tValid = true) : whenTemperature body s = body s := by
  simp [whenTemperature, whenCalibrated, h, ht]

theorem whenTemperature_uncalibrated {body : State → Outcome} {s : State}
    (h : s.status.calValid = false) : whenTemperature body s = finish .notCalibrated {} s := by
  simp [whenTemperature, whenCalibrated, h, raiseError_eq]

theorem whenTemperature_false {body : State → Outcome} {s : State} (h : s.status.calValid = true)
    (ht : s.status.tValid = false) : whenTemperature body s = finish .noTemperature {} s := by
  simp [whenTemperature, whenCalibrated, h, ht, raiseError_eq]

/-! ### LOADCAL -/

/-- The end of LOADCAL is one finish: with all 14 reads good it commits STAGE, else it raises. -/
theorem loadcalEnd_cases {s t : State} (h : loadcalEnd s = .next t) :
    (s.stageOk = 14 ∧
      t = (s.takeTurn.commit
        { calOk := some s.stageOk, tValid := some false, cal := some s.stage, calValid := some true }).complete
          .none) ∨
    (s.stageOk ≠ 14 ∧
      t = (s.takeTurn.commit
        { calOk := some s.stageOk, tValid := some false, calValid := some false }).complete
          .calIncomplete) := by
  unfold loadcalEnd at h
  split at h
  · rw [finish_eq] at h
    injection h with h
    exact .inl ⟨‹_›, h.symm⟩
  · rw [raiseError_eq, finish_eq] at h
    injection h with h
    exact .inr ⟨‹_›, h.symm⟩

/-- All that the step after a cell's read can do: wait, begin the next cell with the outcome staged, or end
the command. -/
theorem nextCell_cases {k : Fin 14} {r : Option (BitVec 32)} {s t : State}
    (h : nextCell k r s = .next t) :
    (k.val + 1 < 14 ∧ firstAnswer s.inputs = none ∧ t = s) ∨
    (∃ (hk : k.val + 1 < 14) (d : Byte), firstAnswer s.inputs = some d ∧
      t = ((s.takeTurn.emit (.busBegin Config.devAddr)).stageResult k r).goto
        (.cell ⟨k.val + 1, hk⟩ .reg Locals.init)) ∨
    (¬ k.val + 1 < 14 ∧ loadcalEnd (s.stageResult k r) = .next t) := by
  unfold nextCell at h
  split at h
  · rename_i hk
    obtain ⟨hf, ht⟩ | ⟨d, hd, ht⟩ := issue_cases h
    · exact .inl ⟨hk, hf, ht⟩
    · exact .inr (.inl ⟨hk, d, hd, ht⟩)
  · exact .inr (.inr ⟨‹_›, h⟩)

/-! ### The host port -/

/-- All that a host write can do. -/
theorem hostWrite_cases (s : State) (off : BitVec 8) (w : Word) :
    (csrAt off = .cmd ∧ s.hostWrite off w = s.submit w) ∨
    (csrAt off = .status ∧ s.hostWrite off w = s.writeStatus w) ∨
    (csrAt off ≠ .cmd ∧ csrAt off ≠ .status ∧ s.hostWrite off w = s) := by
  cases h : csrAt off <;> simp [State.hostWrite, h]

/-- All that a submission can do: acceptance while idle, overrun while busy. -/
theorem submit_cases (s : State) (w : Word) :
    (s.status.busy = false ∧ s.submit w = s.accept w) ∨
    (s.status.busy = true ∧ s.submit w = { s with status := { s.status with ovr := true } }) := by
  cases h : s.status.busy <;> simp [State.submit, h]

end Sys2Proof.Machine
end

