-- ==== Sys2Proof/Laws/PerInstr.lean ====
section
/-! SUPPORT. A statement about every command, one lemma per constructor: the word of a command carries an
OPC that the opcode map assigns (spec/30_encoding.md R110, R113). -/

namespace Sys2Proof.Laws.OpcodeField

/-- OPC of each command (spec/30_encoding.md R113). -/
def opcodeOf : Instr → BitVec 4
  | .read _ _ => 0x1
  | .write _ _ => 0x2
  | .setbit _ _ _ => 0x3
  | .wfield _ _ _ => 0x4
  | .loadcal => 0x5
  | .compt _ => 0x6
  | .compp _ => 0x7
  | .meast => 0x8
  | .measp => 0x9
  | .setosr _ _ => 0xA
  | .getosr => 0xB
  | .setiir _ => 0xC
  | .getiir => 0xD
  | .setodr _ => 0xE
  | .getodr => 0xF

/-- The encoded word's OPC field is the command's opcode. -/
def Statement (i : Instr) : Prop := opcodeField (encode i) = opcodeOf i

/-- Two opcodes with the same four bits are the same. -/
theorem eq_of_four_bits {a b : BitVec 4} (h0 : a.getLsbD 0 = b.getLsbD 0) (h1 : a.getLsbD 1 = b.getLsbD 1)
    (h2 : a.getLsbD 2 = b.getLsbD 2) (h3 : a.getLsbD 3 = b.getLsbD 3) : a = b := by
  apply BitVec.eq_of_getLsbD_eq
  intro i hi
  interval_cases i <;> assumption

theorem read (w : BitVec 2) (reg : BitVec 8) : Statement (.read w reg) := by
  unfold Statement opcodeField encode opcodeOf
  apply eq_of_four_bits <;> simp only [BitVec.getLsbD_extractLsb', BitVec.getLsbD_append] <;> simp
theorem write (reg val : BitVec 8) : Statement (.write reg val) := by
  unfold Statement opcodeField encode opcodeOf
  apply eq_of_four_bits <;> simp only [BitVec.getLsbD_extractLsb', BitVec.getLsbD_append] <;> simp
theorem setbit (reg : BitVec 8) (bit : BitVec 3) (on : BitVec 1) : Statement (.setbit reg bit on) := by
  unfold Statement opcodeField encode opcodeOf
  apply eq_of_four_bits <;> simp only [BitVec.getLsbD_extractLsb', BitVec.getLsbD_append] <;> simp
theorem wfield (reg : BitVec 8) (sh : BitVec 3) (val : BitVec 8) : Statement (.wfield reg sh val) := by
  unfold Statement opcodeField encode opcodeOf
  apply eq_of_four_bits <;> simp only [BitVec.getLsbD_extractLsb', BitVec.getLsbD_append] <;> simp
theorem loadcal : Statement .loadcal := by
  unfold Statement
  decide
theorem compt (raw : BitVec 24) : Statement (.compt raw) := by
  unfold Statement opcodeField encode opcodeOf
  apply eq_of_four_bits <;> simp only [BitVec.getLsbD_extractLsb', BitVec.getLsbD_append] <;> simp
theorem compp (raw : BitVec 24) : Statement (.compp raw) := by
  unfold Statement opcodeField encode opcodeOf
  apply eq_of_four_bits <;> simp only [BitVec.getLsbD_extractLsb', BitVec.getLsbD_append] <;> simp
theorem meast : Statement .meast := by
  unfold Statement
  decide
theorem measp : Statement .measp := by
  unfold Statement
  decide
theorem setosr (osrt osrp : BitVec 3) : Statement (.setosr osrt osrp) := by
  unfold Statement opcodeField encode opcodeOf
  apply eq_of_four_bits <;> simp only [BitVec.getLsbD_extractLsb', BitVec.getLsbD_append] <;> simp
theorem getosr : Statement .getosr := by
  unfold Statement
  decide
theorem setiir (iir : BitVec 3) : Statement (.setiir iir) := by
  unfold Statement opcodeField encode opcodeOf
  apply eq_of_four_bits <;> simp only [BitVec.getLsbD_extractLsb', BitVec.getLsbD_append] <;> simp
theorem getiir : Statement .getiir := by
  unfold Statement
  decide
theorem setodr (odr : BitVec 5) : Statement (.setodr odr) := by
  unfold Statement opcodeField encode opcodeOf
  apply eq_of_four_bits <;> simp only [BitVec.getLsbD_extractLsb', BitVec.getLsbD_append] <;> simp
theorem getodr : Statement .getodr := by
  unfold Statement
  decide

end Sys2Proof.Laws.OpcodeField
end

