-- ==== Sys2Proof/Laws/Step.lean ====
section
/-! SUPPORT. What one step can do, said once. -/

namespace Sys2Proof.Machine

/-- All that a turn of the BCE can do. -/
theorem bceStep_cases {s t : State} (h : bceStep s = .next t) :
    (s.status.busy = false ∧ t = s.takeTurn) ∨
    (s.status.busy = true ∧ ∃ e, s.command = .error e ∧ illegalCommand s = .next t) ∨
    (s.status.busy = true ∧ ∃ i, s.command = .ok i ∧ exec i s = .next t) := by
  unfold bceStep at h
  cases hb : s.status.busy with
  | false =>
    simp only [hb] at h
    injection h with h
    exact .inl ⟨rfl, h.symm⟩
  | true =>
    simp only [hb, if_true] at h
    cases hc : s.command with
    | error e => exact .inr (.inl ⟨rfl, e, rfl, by simpa only [hc] using h⟩)
    | ok i => exact .inr (.inr ⟨rfl, i, rfl, by simpa only [hc] using h⟩)

/-- All that a step can do: a host step, the reset event, or a turn of the BCE. -/
theorem step_cases {s t : State} (h : step s = .next t) :
    (∃ a rest, s.inputs = .host a :: rest ∧ t = s.popInput.hostAct a) ∨
    (∃ rest, s.inputs = .reset :: rest ∧ t = s.popInput.assertReset) ∨
    ((∀ a rest, s.inputs ≠ .host a :: rest) ∧ (∀ rest, s.inputs ≠ .reset :: rest) ∧ bceStep s = .next t) := by
  unfold step at h
  cases hi : s.inputs with
  | nil => exact .inr (.inr ⟨by simp, by simp, by simpa only [hi] using h⟩)
  | cons a rest =>
    rw [hi] at h
    cases a with
    | host a =>
      injection h with h
      exact .inl ⟨a, rest, rfl, h.symm⟩
    | reset =>
      injection h with h
      exact .inr (.inl ⟨rest, rfl, h.symm⟩)
    | bce d => exact .inr (.inr ⟨by simp, by simp, h⟩)

end Sys2Proof.Machine
end

