-- ==== Sys2Proof/Tests/Slice0.lean ====
section
/-! SUPPORT. Tests. Every expected word and value is taken from spec/95_test_vectors.md (the section is
named) or from the rule named; the last part shows, for each obligation with hypotheses, states and operands
that meet them. -/

namespace Sys2Proof.Tests

open Sys2Proof Sys2Proof.Machine

/-! ### Decoding (spec/95_test_vectors.md section 2.1; each word written field by field) -/

theorem test_decode_read :
    decode (0x1#4 ++ 0b00#2 ++ 0b11#2 ++ 0x0000#16 ++ 0x04#8) = .ok (.read 3 0x04) ∧
    decode 0x1000001B = .ok (.read 0 0x1B) ∧ decode 0x12000007 = .ok (.read 2 0x07) := by decide
theorem test_decode_write :
    decode (0x2#4 ++ 0x000#12 ++ 0x33#8 ++ 0x1B#8) = .ok (.write 0x1B 0x33) ∧
    decode 0x2000331B = .ok (.write 0x1B 0x33) := by decide
theorem test_decode_setbit :
    decode (0x3#4 ++ 0x00#8 ++ 0b1#1 ++ 0b001#3 ++ 0x00#8 ++ 0x1B#8) = .ok (.setbit 0x1B 1 1) ∧
    decode 0x3001001B = .ok (.setbit 0x1B 1 0) ∧ decode 0x300F001B = .ok (.setbit 0x1B 7 1) := by decide
theorem test_decode_wfield :
    decode (0x4#4 ++ 0b000000000#9 ++ 0b001#3 ++ 0x02#8 ++ 0x1F#8) = .ok (.wfield 0x1F 1 2) ∧
    decode 0x4004FF1D = .ok (.wfield 0x1D 4 0xFF) := by decide
theorem test_decode_loadcal : decode 0x50000000 = .ok .loadcal := by decide
theorem test_decode_compt :
    decode (0x6#4 ++ 0x0#4 ++ 0x7F0788#24) = .ok (.compt 8325000) ∧
    decode 0x607A1200 = .ok (.compt 8000000) := by decide
theorem test_decode_compp :
    decode (0x7#4 ++ 0x0#4 ++ 0x632EA0#24) = .ok (.compp 6500000) ∧
    decode 0x70FFFFFF = .ok (.compp 16777215) := by decide
theorem test_decode_meast : decode 0x80000000 = .ok .meast := by decide
theorem test_decode_measp : decode 0x90000000 = .ok .measp := by decide
/-- SETOSR 3, 1 is OSRP = 3 in bits 2..0 and OSRT = 1 in bits 5..3. -/
theorem test_decode_setosr :
    decode (0xA#4 ++ 0x00000#20 ++ 0b00#2 ++ 0b001#3 ++ 0b011#3) = .ok (.setosr 1 3) ∧
    decode 0xA000003F = .ok (.setosr 7 7) := by decide
theorem test_decode_getosr : decode 0xB0000000 = .ok .getosr := by decide
theorem test_decode_setiir :
    decode (0xC#4 ++ 0x000000#24 ++ 0b0#1 ++ 0b010#3) = .ok (.setiir 2) ∧
    decode 0xC0000007 = .ok (.setiir 7) := by decide
theorem test_decode_getiir : decode 0xD0000000 = .ok .getiir := by decide
theorem test_decode_setodr :
    decode (0xE#4 ++ 0x00000#20 ++ 0b000#3 ++ 0b10001#5) = .ok (.setodr 17) ∧
    decode 0xE000001F = .ok (.setodr 31) := by decide
theorem test_decode_getodr : decode 0xF0000000 = .ok .getodr := by decide

/-- Every ILLEGAL word of section 2.1. -/
theorem test_decode_illegal :
    ([0x00000000, 0x0FFFFFFF, 0x10000100, 0x14000007, 0x30090100, 0x4008021F, 0x50000001, 0x61000000,
      0x6FFFFFFF, 0x80000080, 0xA0000040, 0xC0000008, 0xE0000020, 0xFFFFFFFF] : List Word).all
      (fun w => match decode w with
        | .ok _ => false
        | .error _ => true) = true := by decide

/-- Encoding gives section 2.1's words back. -/
theorem test_encode :
    encode (.read 1 0x31) = 0x11000031 ∧ encode (.setbit 0x1B 0 1) = 0x3008001B ∧
    encode (.wfield 0x1F 1 2) = 0x4001021F ∧ encode (.setosr 1 3) = 0xA000000B ∧
    encode (.compp 6500000) = 0x70632EA0 := by decide

/-! ### Well-formedness (spec/30_encoding.md R116, R118): each check refuses its ill-formed term -/

theorem test_wf_read :
    (AsmLine.read 0 4).wellFormed = false ∧ (AsmLine.read 5 4).wellFormed = false ∧
    (AsmLine.read 4 256).wellFormed = false ∧ (AsmLine.read 4 255).wellFormed = true := by decide
theorem test_wf_write :
    (AsmLine.write 256 0).wellFormed = false ∧ (AsmLine.write 0 256).wellFormed = false ∧
    (AsmLine.write 255 255).wellFormed = true := by decide
theorem test_wf_setbit :
    (AsmLine.setbit 256 0 0).wellFormed = false ∧ (AsmLine.setbit 0 8 0).wellFormed = false ∧
    (AsmLine.setbit 0 0 2).wellFormed = false ∧ (AsmLine.setbit 255 7 1).wellFormed = true := by decide
theorem test_wf_wfield :
    (AsmLine.wfield 256 0 0).wellFormed = false ∧ (AsmLine.wfield 0 8 0).wellFormed = false ∧
    (AsmLine.wfield 0 0 256).wellFormed = false ∧ (AsmLine.wfield 255 7 255).wellFormed = true := by decide
theorem test_wf_samples :
    (AsmLine.compt 16777216).wellFormed = false ∧ (AsmLine.compp 16777216).wellFormed = false ∧
    (AsmLine.compt 16777215).wellFormed = true ∧ (AsmLine.compp 16777215).wellFormed = true := by decide
theorem test_wf_codes :
    (AsmLine.setosr 8 0).wellFormed = false ∧ (AsmLine.setosr 0 8).wellFormed = false ∧
    (AsmLine.setiir 8).wellFormed = false ∧ (AsmLine.setodr 32).wellFormed = false ∧
    (AsmLine.setosr 7 7).wellFormed = true ∧ (AsmLine.setodr 31).wellFormed = true := by decide
theorem test_wf_pseudo :
    (AsmLine.read8 256).wellFormed = false ∧ (AsmLine.read16 256).wellFormed = false ∧
    (AsmLine.read24 256).wellFormed = false ∧ (AsmLine.read32 256).wellFormed = false ∧
    (AsmLine.setflag 256 0).wellFormed = false ∧ (AsmLine.setflag 0 8).wellFormed = false := by decide

/-! ### Small states -/

/-- Calibration set A (section 2.3): CAL after a good LOADCAL of the set A bytes. -/
def setA : Vector CellWord 14 :=
  #v[27000, 19000, 0xFFF9, 0xFA88, 0xF5D8, 35, 2, 25000, 25600, 3, 0xFFFA, 16000, 8, 0xFFC4]

/-- The reset state with the command `i` in progress at `q`, and `ins` to come. -/
def busyAt (i : Instr) (q : Seq) (ins : List Input) : State :=
  { State.reset with
    cmdlat := encode i, seq := q, inputs := ins, status := { Status.reset with busy := true } }

/-- As `busyAt`, with set A loaded and the temperature of section 2.4 stored where `t` holds. -/
def calibrated (t : Bool) (i : Instr) (q : Seq) (ins : List Input) : State :=
  { busyAt i q ins with
    cal := setA
    temp := if t then 0x018F41CD else 0
    status := { Status.reset with busy := true, calValid := true, tValid := t, calOk := 14 } }

/-- The state after reset with inputs to come. -/
def idleWith (ins : List Input) : State := { State.reset with inputs := ins }

/-- A field of the next state. -/
def nextField {α : Type} (f : State → α) (o : Outcome) : Option α :=
  match o with
  | .next t => some (f t)
  | .fault _ => none
  | .refused _ => none

/-- Local variables with `v` read. -/
def got (v : BitVec 32) : Locals := { v := v, sample := 0 }

/-! ### One step of each command -/

/-- Table R: the third byte 0x7F of READ.3 0x07 after 0x88 and 0x07. -/
theorem test_read_last_byte :
    nextField State.seq (step (busyAt (.read 2 0x07) (.read (.byte 2) (got 0x0788)) [.bce 0x7F])) =
      some (.finish (got 0x7F0788)) := by decide
/-- Table R: READ.4 with avail 3 reads no byte. -/
theorem test_read_short :
    nextField State.seq (step (busyAt (.read 3 0x04) (.read .request (got 0)) [.bce 3])) =
      some .raise := by decide
/-- Section 3, P3 step 5: WRITE 0x1C, 0x0B. -/
theorem test_write_value :
    nextField State.bus (step (busyAt (.write 0x1C 0x0B) (.write .val (got 0)) [.bce 0])) =
      some [.busWrite 0x0B] := by decide
/-- Table S: SETBIT 0x1B, 1, 1 on 0x30 writes 0x32. -/
theorem test_setbit_on :
    nextField State.bus (step (busyAt (.setbit 0x1B 1 1) (.write .val (got 0x30)) [.bce 0])) =
      some [.busWrite 0x32] := by decide
/-- Table S: SETBIT 0x1B, 1, 0 on 0x32 writes 0x32. -/
theorem test_setbit_off :
    nextField State.bus (step (busyAt (.setbit 0x1B 1 0) (.write .val (got 0x32)) [.bce 0])) =
      some [.busWrite 0x32] := by decide
/-- Table F: WFIELD 0x1D, 4, 0xFF on 0x00 writes 0xF0. -/
theorem test_wfield_truncates :
    nextField State.bus (step (busyAt (.wfield 0x1D 4 0xFF) (.write .val (got 0x00)) [.bce 0])) =
      some [.busWrite 0xF0] := by decide
/-- Table F: a short WFIELD ends with SHORT_READ (code 1). -/
theorem test_wfield_short :
    nextField (fun t => t.status.word) (step (busyAt (.wfield 0x1F 1 2) .raise [])) =
      some 0x00000102 := by decide
/-- Section 1.1: byte 0xFF of P3 (s8) decodes to -1, and CAL_5 reads 0xFFFFFFFF. It is staged in the step
after the read, the next cell's first primitive (spec/10_state.md R55), and not in the read's last step. -/
theorem test_loadcal_signed_cell :
    nextField (fun t => (t.seq, t.stageOk))
      (step (busyAt .loadcal (.cell 5 (.byte 0) (got 0)) [.bce 0xFF])) =
      some (.afterCell 5 (some 0xFF), 0) ∧
    nextField (fun t => (calView t.stage 5, t.stageOk, t.seq))
      (step (busyAt .loadcal (.afterCell 5 (some 0xFF)) [.bce 0])) =
      some (0xFFFFFFFF, 1, .cell 6 .reg Locals.init) := by decide
/-- Section 3, P2 step 1: with 13 good reads STATUS is 0x000D0302 and CAL is as before. -/
theorem test_loadcal_incomplete :
    nextField (fun t => (t.status.word, t.cal))
      (step { busyAt .loadcal (.afterCell 13 none) [] with stageOk := 13, stage := setA }) =
      some (0x000D0302, State.reset.cal) := by decide
/-- Section 2.4: COMPT 8325000 with set A gives 0x018F41CD; STATUS is 0x000E000E (P2 step 6). -/
theorem test_compt_setA :
    nextField (fun t => (t.temp, t.result, t.status.word))
      (step (calibrated false (.compt 8325000) .start [])) =
      some (0x018F41CD, 0x00000000018F41CD, 0x000E000E) := by decide
/-- Section 2.8: COMPP after reset raises NOT_CALIBRATED (6), before NO_TEMPERATURE. -/
theorem test_compp_uncalibrated :
    nextField (fun t => t.status.word) (step (busyAt (.compp 0) .start [])) = some 0x00000602 := by decide
/-- Section 3, P2 step 7: COMPP 6500000 with set A at the stored temperature. -/
theorem test_compp_setA :
    nextField (fun t => (t.result, t.temp)) (step (calibrated true (.compp 6500000) .start [])) =
      some (0x0001771CF7E62B61, 0x018F41CD) := by decide
/-- Section 2.6: MEAST writes 0x32 where 0x1B holds 0x30. -/
theorem test_meast_flag :
    nextField State.bus (step (calibrated false .meast (.write .val (got 0x30)) [.bce 0])) =
      some [.busWrite 0x32] := by decide
/-- Section 2.6: MEAST's result. -/
theorem test_meast_result :
    nextField (fun t => (t.temp, t.result))
      (step (calibrated false .meast (.finish ⟨0x30, 8325000⟩) [])) =
      some (0x018F41CD, 0x00000000018F41CD) := by decide
/-- Section 2.6: MEASP writes 0x33 where 0x1B holds 0x32. -/
theorem test_measp_flag :
    nextField State.bus (step (calibrated true .measp (.write .val (got 0x32)) [.bce 0])) =
      some [.busWrite 0x33] := by decide
/-- Section 2.8: MEASP with CAL_VALID = 1 and T_VALID = 0 raises NO_TEMPERATURE (7). -/
theorem test_measp_no_temperature :
    nextField (fun t => t.status.err.code) (step (calibrated false .measp .start [])) = some 7 := by decide
/-- Section 2.7: SETOSR 4, 0 on 0x0B writes 0x0F. -/
theorem test_setosr_or :
    nextField State.bus (step (busyAt (.setosr 0 4) (.write .val (got 0x0B)) [.bce 0])) =
      some [.busWrite 0x0F] := by decide
/-- Section 2.7: GETOSR of 0xCB. -/
theorem test_getosr :
    nextField State.result (step (busyAt .getosr (.finish (got 0xCB)) [])) =
      some 0x0000000000000BCB := by decide
/-- Section 2.7: SETIIR 2 on 0x01 writes 0x05. -/
theorem test_setiir :
    nextField State.bus (step (busyAt (.setiir 2) (.write .val (got 0x01)) [.bce 0])) =
      some [.busWrite 0x05] := by decide
/-- Section 2.7: GETIIR of 0x05. -/
theorem test_getiir :
    nextField State.result (step (busyAt .getiir (.finish (got 0x05)) [])) =
      some 0x0000000000000205 := by decide
/-- Section 2.7: SETODR 31 on 0x00 writes 0x1F. -/
theorem test_setodr :
    nextField State.bus (step (busyAt (.setodr 31) (.write .val (got 0x00)) [.bce 0])) =
      some [.busWrite 0x1F] := by decide
/-- Section 2.7: GETODR of 0xF1. -/
theorem test_getodr :
    nextField State.result (step (busyAt .getodr (.finish (got 0xF1)) [])) =
      some 0x00000000000011F1 := by decide
/-- Section 2.8: 0x61000000 after reset raises ILLEGAL_COMMAND (8): STATUS 0x00000802. -/
theorem test_illegal_word :
    nextField (fun t => t.status.word) (step ((idleWith []).withFetchWord 32 0x61000000)) =
      some 0x00000802 := by decide
/-- The first primitive carries DEV_ADDR (spec/00_scope.md R8). -/
theorem test_first_primitive :
    nextField State.bus (step (busyAt (.read 0 0x1B) .start [.bce 0])) =
      some [.busBegin Config.devAddr] := rfl

/-! ### The host port (section 2.9) and reset (section 2.10) -/

/-- Step 2: COEF_3 reads 0xFFFFC000 after reset. -/
theorem test_coef_after_reset :
    nextField State.hostLog (step (idleWith [.host (.read 0x6C)])) = some [(0x6C, 0xFFFFC000)] := by decide
/-- Step 3: an unmapped offset reads 0. -/
theorem test_unmapped_reads_zero :
    nextField State.hostLog (step (idleWith [.host (.read 0xFC)])) = some [(0xFC, 0)] := by decide
/-- Step 4: a write to TEMP is ignored. -/
theorem test_temp_is_read_only :
    nextField State.temp (step (idleWith [.host (.write 0x10 0x12345678)])) = some 0 := by decide
/-- Step 5: acceptance sets BUSY and clears DONE. -/
theorem test_acceptance :
    nextField (fun t => (t.status.word, t.cmdlat)) (step (idleWith [.host (.write 0x00 0x50000000)])) =
      some (0x00000001, 0x50000000) := by decide
/-- Step 6: a command written while BUSY = 1 is dropped and sets OVR. -/
theorem test_overrun :
    nextField (fun t => (t.status.ovr, t.cmdlat))
      (step (busyAt .loadcal .start [.host (.write 0x00 0x80000000)])) = some (true, 0x50000000) := by decide
/-- Section 2.10: reset during LOADCAL leaves STATUS 0. -/
theorem test_reset :
    nextField (fun t => (t.status.word, t.temp, t.seq))
      (step (calibrated true .loadcal (.cell 1 .reg (got 0)) [.reset])) = some (0, 0, .idle) := by decide

/-- The decoder reads a table row's own bits. -/
theorem test_decodeTableWord : decodeTableWord 32 0x2000331B = some (.write 0x1B 0x33) := by decide

/-- The host's core is this machine. -/
theorem test_core_step : core.step = step := rfl

/-! ### The hypotheses of the obligations can be met, clause by clause -/

/-- MEAST waiting in its raw read, with set A loaded and a temperature stored. -/
def measuring : State := calibrated true .meast (.read (.byte 1) (got 0x88)) (turns (List.replicate 78 7) [])

theorem measuring_command : measuring.command = .ok .meast := by decide

theorem witness_Inv : Inv measuring where
  idle_iff := by decide
  on_program := by
    intro _ i hi
    rw [measuring_command] at hi
    injection hi with hi
    subst hi
    decide
  busy_not_done := by decide
  err_reported := by decide
  cal_ok_le := by decide
  staging := trivial
  cal_range := by decide
  temp_calibrated := by decide
  temp_range := by decide
  meas_calibrated := by decide

/-- LOADCAL after its last read, all 14 good, with the last outcome to be staged. -/
def loading : State :=
  { calibrated true .loadcal (.afterCell 13 (some 0xC4)) [.bce 0] with stage := setA, stageOk := 13 }

theorem witness_Inv_loading : Inv loading where
  idle_iff := by decide
  on_program := by
    intro _ i hi
    rw [show loading.command = .ok .loadcal from by decide] at hi
    injection hi with hi
    subst hi
    decide
  busy_not_done := by decide
  err_reported := by decide
  cal_ok_le := by decide
  staging := by
    show (13#4).toNat ≤ 13 ∧
      ((13#4).toNat = 13 → ∀ j : Fin 14, j < 13 → cellInRange (cellRow j).type setA[j] = true)
    decide
  cal_range := by decide
  temp_calibrated := by decide
  temp_range := by decide
  meas_calibrated := by decide

theorem witness_EncodeOfDecodedWord : decode 0x4004FF1D = .ok (.wfield 0x1D 4 0xFF) := by decide

theorem witness_NoTwoRowsMatchOneWord :
    ∃ r ∈ opcodeMap, (0x13000004#32) &&& r.mask = r.value :=
  ⟨opcodeMap.head (by decide), by simp [opcodeMap], by decide⟩

/-- Both kinds of illegal word, with an answer and without. -/
theorem witness_IllegalCommandChangesOnlyStatus :
    (let s := { busyAt .loadcal .start [.bce 0] with cmdlat := 0x0FFFFFFF }
     s.status.busy = true ∧ opcodeField s.cmdlat = 0 ∧ s.inputs = .bce 0 :: []) ∧
    (let s := { busyAt .loadcal .start [] with cmdlat := 0x50000001 }
     s.status.busy = true ∧ s.inputs = [] ∧
       ∃ r ∈ opcodeMap, r.opc = opcodeField s.cmdlat ∧ s.cmdlat &&& r.mask &&& 0x0FFFFFFF#32 ≠ 0) :=
  ⟨by decide, by decide, rfl, opcodeMap[4], by simp [opcodeMap], by decide⟩

theorem witness_StepRunsTheLatchedCommand :
    (let s := busyAt .getosr .start [.bce 1]
     s.status.busy = true ∧ decode s.cmdlat = .ok .getosr ∧ s.inputs = .bce 1 :: []) ∧
    (let s := busyAt .getosr .start []
     s.status.busy = true ∧ decode s.cmdlat = .ok .getosr ∧ s.inputs = []) ∧
    (idleWith [.host (.read 0x04)]).inputs = .host (.read 0x04) :: [] := by decide

/-- Both ends of CMD's four offsets. -/
theorem witness_IdleBlockAcceptsCommand :
    (let s := idleWith [.host (.write 0x03 0x50000000)]
     s.status.busy = false ∧ (0x03#8).toNat / 4 = 0 ∧ s.inputs = .host (.write 0x03 0x50000000) :: []) ∧
    (let s := idleWith [.host (.write 0x00 0x50000000)]
     s.status.busy = false ∧ (0x00#8).toNat / 4 = 0 ∧ s.inputs = .host (.write 0x00 0x50000000) :: []) := by
  decide

/-- An overrun, and each way OVR changes: overrun, a write of bit 4, reset; and a BCE step. -/
theorem witness_OverrunSetsOnlyOvr :
    (let s := busyAt .getosr .start [.host (.write 0x03 0x50000000)]
     s.status.busy = true ∧ (0x03#8).toNat / 4 = 0 ∧ s.inputs = .host (.write 0x03 0x50000000) :: [] ∧
       nextField (fun t => t.status.ovr) (step s) = some true ∧ s.status.ovr = false) ∧
    (let s := { idleWith [.host (.write 0x04 0x10)] with status := { Status.reset with ovr := true } }
     nextField (fun t => t.status.ovr) (step s) = some false ∧ s.status.ovr = true) ∧
    (let s := { idleWith [.reset] with status := { Status.reset with ovr := true } }
     nextField (fun t => t.status.ovr) (step s) = some false ∧ s.status.ovr = true) ∧
    (let s := busyAt .getosr .raise [.bce 3]
     s.inputs = .bce 3 :: [] ∧ nextField (fun t => t.status.busy) (step s) = some false) := by decide

/-- Both ends of STATUS's four offsets. -/
theorem witness_StatusWriteClearsOnlyOvr :
    ((0x04#8).toNat / 4 = 1 ∧ (idleWith [.host (.write 0x04 0x10)]).inputs = .host (.write 0x04 0x10) :: []) ∧
    ((0x07#8).toNat / 4 = 1 ∧
      (busyAt .getosr .start [.host (.write 0x07 0)]).inputs = .host (.write 0x07 0) :: []) := by decide

/-- RESULT_LO, the first CSR after STATUS, and the last offset. -/
theorem witness_ReadOnlyWritesAreIgnored :
    (2 ≤ (0x08#8).toNat / 4 ∧ (idleWith [.host (.write 0x08 1)]).inputs = .host (.write 0x08 1) :: []) ∧
    (2 ≤ (0xFF#8).toNat / 4 ∧ (idleWith [.host (.write 0xFF 1)]).inputs = .host (.write 0xFF 1) :: []) := by
  decide

/-- The value a host read at `off` returns in the state after reset with set A in CAL. -/
def readBack (off : BitVec 8) : Option (List (BitVec 8 × BitVec 32)) :=
  nextField State.hostLog (step { idleWith [.host (.read off)] with cal := setA, temp := 7, result := 0x900000008 })

/-- Every clause at the ends of its range: CMD, STATUS, RESULT, TEMP, CAL_0 and CAL_13, COEF_0 and COEF_13,
and the unmapped offsets 0x14, 0x1F, 0x58, 0x5F, 0x98 and 0xFF. -/
theorem witness_HostReadsFollowTheMap :
    readBack 0x03 = some [(0x03, 0)] ∧ readBack 0x04 = some [(0x04, 0)] ∧ readBack 0x08 = some [(0x08, 8)] ∧
    readBack 0x0C = some [(0x0C, 9)] ∧ readBack 0x10 = some [(0x10, 7)] ∧
    readBack 0x20 = some [(0x20, 27000)] ∧ readBack 0x57 = some [(0x57, 0xFFFFFFC4)] ∧
    readBack 0x60 = some [(0x60, 27000)] ∧ readBack 0x97 = some [(0x97, 0xFFFFFFC4)] ∧
    ([0x14, 0x1F, 0x58, 0x5F, 0x98, 0xFF] : List (BitVec 8)).all (fun o => readBack o == some [(o, 0)]) ∧
    (idleWith [.host (.write 0x98 1)]).inputs = .host (.write 0x98 1) :: [] := by decide

theorem witness_ResetAbandonsTheCommand :
    (calibrated true .loadcal (.cell 1 .reg (got 0)) (.reset :: turns [1, 2] [])).inputs =
      .reset :: turns [1, 2] [] := rfl

theorem witness_IdleBlockIsQuiescent :
    ((idleWith []).status.busy = false ∧ (idleWith []).inputs = []) ∧
    ((idleWith [.bce 5]).status.busy = false ∧ (idleWith [.bce 5]).inputs = .bce 5 :: []) := by decide

/-- A READ stalled in its count, with host accesses to come, with none, and with reset to come. -/
theorem witness_UnansweredPrimitiveStallsForEver :
    let s (ins : List Input) := busyAt (.read 3 0x04) (.read .request (got 0)) ins
    (∀ ins, (s ins).status.busy = true ∧ decode (s ins).cmdlat = .ok (.read 3 0x04) ∧
      onProgram (.read 3 0x04) (s ins).seq = true ∧ atPrimitive (.read 3 0x04) (s ins) = true) ∧
    atPrimitive .measp (calibrated true .measp .start []) = true ∧
    (s [.host (.read 0x04), .host (.write 0x00 0)]).inputs =
      [HostAct.read 0x04, HostAct.write 0x00 0].map .host ∧
    (s []).inputs = ([] : List HostAct).map .host ∧ (s [.reset]).inputs = .reset :: [] :=
  ⟨fun _ => ⟨rfl, by show decode (encode (.read 3 0x04)) = _; decide, rfl, rfl⟩, by decide, rfl, rfl, rfl⟩

/-- The finish position of ReadingCommandsReturnTheirValue, WritingCommandsEndCleanly and
MeasurementsCompensateTheirSample. -/
theorem witness_finish_position :
    (busyAt .getosr (.finish (got 0xCB)) []).seq = .finish (got 0xCB) ∧
    (busyAt (.write 1 2) (.finish (got 0)) []).seq = .finish (got 0) ∧
    (calibrated true .measp (.finish ⟨0, 6500000⟩) []).seq = .finish ⟨0, 6500000⟩ := by decide

theorem witness_RegisterWritesCarryTheirByte :
    let s := busyAt (.setiir 2) (.write .val (got 0x01)) [.bce 0]
    s.seq = .write .val (got 0x01) ∧ s.inputs = .bce 0 :: [] := by decide

theorem witness_FailedReadRaisesItsError : (busyAt (.read 3 0x04) .raise []).seq = .raise := rfl

/-- COMPT uncalibrated and calibrated. -/
theorem witness_ComptStoresTheTemperature :
    (let s := busyAt (.compt 0) .start []
     s.seq = .start ∧ s.status.calValid = false) ∧
    (let s := calibrated false (.compt 8325000) .start []
     s.seq = .start ∧ s.status.calValid = true ∧ calInRange s.cal = true) := by decide

/-- COMPP uncalibrated, without a temperature, and with the lowest temperature of spec/42_compensation.md
R218. -/
theorem witness_ComppReturnsThePressure :
    (let s := busyAt (.compp 0) .start []
     s.seq = .start ∧ s.status.calValid = false) ∧
    (let s := calibrated false (.compp 0) .start []
     s.seq = .start ∧ s.status.calValid = true ∧ s.status.tValid = false) ∧
    (let s := { calibrated true (.compp 0) .start [] with temp := BitVec.ofInt 32 (-1207943088) }
     s.seq = .start ∧ s.status.calValid = true ∧ s.status.tValid = true ∧ calInRange s.cal = true ∧
       |s.temp.toInt| ≤ 1207943088) := by decide

/-- The last outcome good or short, after 13 good reads and after fewer. -/
theorem witness_LoadcalCommitsAllOrNothing :
    let s (n : BitVec 4) (r : Option (BitVec 32)) := { busyAt .loadcal (.afterCell 13 r) [] with stageOk := n }
    (∀ n r, (s n r).seq = .afterCell 13 r) ∧ (s 13 (some 0)).stageOk + 1 = 14 ∧
      (s 12 (some 0)).stageOk + 1 ≠ 14 ∧ (s 13 none).stageOk ≠ 14 ∧ (s 0 none).stageOk ≠ 14 :=
  ⟨fun _ _ => rfl, by decide⟩

/-- The first and the last cell that another follows, good and short; and steps that change STAGE and
STAGE_OK. -/
theorem witness_StagingBelongsToTheNextStep :
    (let s := busyAt .loadcal (.afterCell 0 (some 0x6978)) [.bce 0]
     s.seq = .afterCell 0 (some 0x6978) ∧ s.inputs = .bce 0 :: [] ∧
       nextField (fun t => (t.stage[0], t.stageOk)) (step s) = some (0x6978, 1) ∧ s.stage[0] = 0) ∧
    (let s := busyAt .loadcal (.afterCell 12 none) [.bce 0]
     s.seq = .afterCell 12 none ∧ s.inputs = .bce 0 :: [] ∧ 12 + 1 < 14) ∧
    (∀ rest, (busyAt .loadcal (.afterCell 0 (some 0x6978)) [.bce 0]).inputs ≠ .reset :: rest) :=
  ⟨by decide, by decide, by intro rest h; cases h⟩

theorem witness_UncalibratedCommandsAreRefused :
    (busyAt .meast .start []).seq = .start ∧ (busyAt .meast .start []).status.calValid = false := by decide

theorem witness_PressureWithoutTemperatureIsRefused :
    let s := calibrated false .measp .start []
    s.seq = .start ∧ s.status.calValid = true ∧ s.status.tValid = false := by decide

/-- A whole run's start: the command latched, and the transport's answers. -/
def startOf (i : Instr) (answers : List Byte) : State := calibrated true i .start (turns answers [])

theorem startOf_started (i : Instr) (answers : List Byte) : Started i (startOf i answers) := ⟨rfl, rfl, rfl⟩

/-- READ of 1 byte with avail exactly 1, of 4 with exactly 4 and with 255; short by one. -/
theorem witness_ReadRunsToItsResult :
    (Started (.read 3 4) (startOf (.read 3 4) [0, 0, 0, 4, 1, 2, 3, 4, 9]) ∧
      (3#2).toNat + 1 ≤ (4#8).toNat ∧ ([1, 2, 3, 4] : List Byte).length = (3#2).toNat + 1) ∧
    ((0#2).toNat + 1 ≤ (1#8).toNat ∧ (3#2).toNat + 1 ≤ (255#8).toNat ∧
      ([1] : List Byte).length = (0#2).toNat + 1) ∧
    ((3#8).toNat < (3#2).toNat + 1 ∧ (0#8).toNat < (0#2).toNat + 1) :=
  ⟨⟨startOf_started _ _, by decide, rfl⟩, by decide, by decide⟩

theorem witness_WriteRunsToItsEnd :
    Started (.write 0x1B 0x33) (startOf (.write 0x1B 0x33) [0, 0, 0, 0, 9]) ∧
    (startOf (.write 0x1B 0x33) [0, 0, 0, 0, 9]).inputs = turns ([0, 0, 0, 0] ++ [9]) [] :=
  ⟨startOf_started _ _, rfl⟩

/-- SetbitRunsSilently, WfieldRunsCumulatively, and the reads of the setters and the getters: avail 1 and
avail 0. -/
theorem witness_one_byte_reads :
    (∀ i, Started i (startOf i [0, 0, 0, 1, 0x30, 0, 0, 0, 0, 9])) ∧ (∀ i, Started i (startOf i [0, 0, 0, 0, 9])) ∧
    1 ≤ (1#8).toNat ∧ (0#8).toNat = 0 ∧
    (startOf (.setbit 0x1B 1 1) [0, 0, 0, 1, 0x30, 0, 0, 0, 0, 9]).inputs =
      turns ([0, 0, 0, 1, 0x30, 0, 0, 0, 0] ++ [9]) [] ∧
    (startOf (.wfield 0x1F 1 2) [0, 0, 0, 0, 9]).inputs = turns ([0, 0, 0, 0] ++ [9]) [] :=
  ⟨fun _ => startOf_started _ _, fun _ => startOf_started _ _, by decide, by decide, rfl, rfl⟩

/-- Each form of SettersRunCumulatively and of GettersRunToFieldAndByte. -/
theorem witness_SettersAndGetters :
    (∃ osrt osrp : BitVec 3, Instr.setosr 1 3 = .setosr osrt osrp ∧ (0x0B : Byte) = 0#2 ++ osrt ++ osrp) ∧
    (∃ iir : BitVec 3, Instr.setiir 2 = .setiir iir ∧ (0x04 : Byte) = 0#4 ++ iir ++ 0#1) ∧
    (∃ odr : BitVec 5, Instr.setodr 17 = .setodr odr ∧ (0x11 : Byte) = 0#3 ++ odr) ∧
    (0x0BCB : BitVec 64) = 0#50 ++ (0xCB#8).extractLsb' 0 6 ++ 0xCB#8 ∧
    (0x0205 : BitVec 64) = 0#53 ++ (0x05#8).extractLsb' 1 3 ++ 0x05#8 ∧
    (0x11F1 : BitVec 64) = 0#51 ++ (0xF1#8).extractLsb' 0 5 ++ 0xF1#8 :=
  ⟨⟨1, 3, by decide⟩, ⟨2, by decide⟩, ⟨17, by decide⟩, by decide⟩

/-- Replies of which all 14 reads are good where `n` = 2, and the one-byte ones alone where `n` = 1. -/
def replies (n : BitVec 8) (k : Fin 14) : CellReply :=
  { a0 := 0, a1 := 0, a2 := 0, avail := n, bytes := List.replicate (cellRow k).width 0x55 }

theorem witness_LoadcalRunsAllOrNothing :
    ((∀ k, (replies 2 k).good k = true → (replies 2 k).bytes.length = (cellRow k).width) ∧
      goodReads (replies 2) = 14) ∧
    ((∀ k, (replies 1 k).good k = true → (replies 1 k).bytes.length = (cellRow k).width) ∧
      goodReads (replies 1) = 7) ∧
    (∀ answers, Started .loadcal (startOf .loadcal answers)) ∧
    (startOf .loadcal (loadAnswers (replies 2) ++ [0])).inputs = turns (loadAnswers (replies 2) ++ [0]) [] :=
  ⟨⟨by simp [replies], by decide⟩, ⟨by simp [replies], by decide⟩, fun _ => startOf_started _ _, rfl⟩

/-- MeastRunsToItsTemperature and MeaspRunsToItsPressure: each of the three outcomes of their reads, at its
boundary, and the refusals before them. -/
theorem witness_MeasurementsRun :
    (∀ answers, Started .meast (startOf .meast answers) ∧ (startOf .meast answers).status.calValid = true) ∧
    (∀ answers, Started .measp (startOf .measp answers) ∧ (startOf .measp answers).status.calValid = true ∧
      (startOf .measp answers).status.tValid = true) ∧
    (3 ≤ (3#8).toNat ∧ 1 ≤ (1#8).toNat) ∧ (3 ≤ (255#8).toNat ∧ (0#8).toNat = 0) ∧ (2#8).toNat < 3 ∧
    (startOf .meast [0, 0, 0, 2, 9]).inputs = turns ([0, 0, 0, 2] ++ [9]) [] ∧
    (Started .meast (busyAt .meast .start [.bce 9]) ∧ (busyAt .meast .start [.bce 9]).status.calValid = false) ∧
    (Started .measp (calibrated false .measp .start [.bce 9]) ∧
      (calibrated false .measp .start [.bce 9]).status.calValid = true ∧
      (calibrated false .measp .start [.bce 9]).status.tValid = false) :=
  ⟨fun _ => ⟨startOf_started _ _, rfl⟩, fun _ => ⟨startOf_started _ _, rfl, rfl⟩, by decide, by decide,
    by decide, rfl, ⟨⟨rfl, rfl, rfl⟩, rfl⟩, ⟨⟨rfl, rfl, rfl⟩, rfl, rfl⟩⟩

/-- The ends of the ranges of CellsDecodeByType and its two signs. -/
theorem witness_CellsDecodeByType :
    ((65535#32).toNat < 65536 ∧ (32767#32).toNat < 32768 ∧ ¬ (32768#32).toNat < 32768) ∧
    ((255#32).toNat < 256 ∧ (127#32).toNat < 128 ∧ ¬ (128#32).toNat < 128) := by decide

/-- Cells in range, with the extremes of each type: 65535 and 0, -32768 and 32767, -128 and 127
(CoefficientsAreExact, TemperatureStagesFit, PressureStagesFit). -/
theorem witness_calInRange :
    calInRange #v[65535, 0, 0x7F, 0x8000, 0x7FFF, 0xFF80, 0x7F, 65535, 0, 0xFF80, 0x7F, 0x8000, 0xFF80, 0x7F] =
      true ∧ |(-1207943088 : Int)| ≤ 1207943088 := by decide

theorem witness_RoundingIsNearestTiesUp : 1 ≤ 1 ∧ 1 ≤ 65 := by decide

theorem witness_CalibrationSetAValues :
    setA = #v[27000, 19000, 0xFFF9, 0xFA88, 0xF5D8, 35, 2, 25000, 25600, 3, 0xFFFA, 16000, 8, 0xFFC4] := rfl

theorem witness_ReadModifyWriteNeverClears : (0 : Nat) < 8 ∧ (7 : Nat) < 8 := by decide

theorem witness_ConfigurationRoundTrip :
    (0xC0#8).extractLsb' 0 6 = 0#6 ∧ (0x01#8).extractLsb' 1 3 = 0#3 ∧ (0xE0#8).extractLsb' 0 5 = 0#5 := by decide

/-- An Inv state that is busy, with 78 answers to come (StepKeepsInvariant, NothingStopsTheMachine,
EveryCommandEnds). -/
theorem witness_EveryCommandEnds :
    Inv measuring ∧ measuring.status.busy = true ∧
    measuring.inputs = turns (List.replicate 78 7) [] ∧ 78 ≤ (List.replicate 78 (7 : Byte)).length ∧
    (nextField State.seq (step measuring)).isSome :=
  ⟨witness_Inv, rfl, rfl, by decide, by decide⟩

/-- Steps of every kind that CommandLatchIsFrozenWhileBusy, OnePrimitivePerStep, WritesAppearAtCompletion and
OnlyTheirCommandsWriteResults speak of: a primitive, a completion that writes
TEMP, RESULT and T_VALID, one that writes CAL, CAL_VALID and CAL_OK, and an acceptance. -/
theorem witness_whole_machine_steps :
    (measuring.status.busy = true ∧ nextField (fun t => (t.status.busy, t.bus)) (step measuring) =
      some (true, [.busRead 7])) ∧
    (nextField (fun t => (t.temp != 0, t.result != 0, t.status.tValid))
      (step (calibrated false (.compt 8325000) .start [])) = some (true, true, true)) ∧
    (nextField (fun t => (t.cal == setA, t.status.calValid, t.status.calOk))
      (step { busyAt .loadcal (.afterCell 13 (some 0xC4)) [] with stage := setA, stageOk := 13 }) =
      some (true, true, 14)) ∧
    (nextField State.cmdlat (step (idleWith [.host (.write 0x00 0x80000000)])) = some 0x80000000) ∧
    (∀ rest, (calibrated false (.compt 8325000) .start []).inputs ≠ .reset :: rest) :=
  ⟨by decide, by decide, by decide, by decide, by intro rest h; cases h⟩

theorem witness_HostStepsLeaveTheCommandAlone :
    let s := busyAt .loadcal .start [.host (.write 0x00 0)]
    s.status.busy = true ∧ s.inputs = .host (.write 0x00 0) :: [] ∧
      (nextField State.seq (step s)).isSome := by decide

/-- Every operand of every line at the top of its range, and words of section 2.1. -/
theorem witness_AssemblerProducesOnlyCommands :
    (1 ≤ 1 ∧ 1 ≤ 4 ∧ 4 ≤ 4 ∧ 255 < 256 ∧ 7 < 8 ∧ 1 < 2 ∧ 31 < 32 ∧ 16777215 < 2 ^ 24) ∧
    assembleLine (.read 4 0x04) = some [.submit 0x13000004] ∧
    assembleLine (.write 0x1B 0x33) = some [.submit 0x2000331B] ∧
    assembleLine (.setbit 0x1B 7 1) = some [.submit 0x300F001B] ∧
    assembleLine (.wfield 0x1D 4 0xFF) = some [.submit 0x4004FF1D] ∧
    assembleLine (.setosr 3 1) = some [.submit 0xA000000B] ∧
    assembleLine (.compt 16777216) = none := by decide

end Sys2Proof.Tests
end

section
/-! Rounding, `rnd(N, s)` (spec/00_scope.md R12): its value as a rational floor, and the interval its
error lies in. -/

namespace Sys2Proof.Machine

/-- The model's integer division is the floor of the exact rational quotient. -/
theorem rnd_eq_floor (n : Int) (s : Nat) :
    rnd n s = ⌊((n + 2 ^ (s - 1) : Int) : ℚ) / 2 ^ s⌋ := by
  have hfloor := Rat.floor_intCast_div_natCast (n + 2 ^ (s - 1)) (2 ^ s)
  push_cast at hfloor ⊢
  exact hfloor.symm

/-- The divisor is twice the offset that `rnd` adds, which is what makes the offset half a unit. -/
theorem two_pow_eq_two_mul_half {s : Nat} (hs : 1 ≤ s) : (2 : Int) ^ s = 2 * 2 ^ (s - 1) :=
  (mul_pow_sub_one (Nat.one_le_iff_ne_zero.mp hs) 2).symm

/-- The shifted numerator leaves the remainder `n + 2^(s-1) - rnd n s * 2^s` in `[0, 2^s)`; taking the
offset back off makes this the half-open interval that closes at `-2^(s-1)`: a tie goes up. -/
theorem rnd_error_bounds (n : Int) {s : Nat} (hs : 1 ≤ s) :
    -((2 : Int) ^ (s - 1)) ≤ n - rnd n s * 2 ^ s ∧ n - rnd n s * 2 ^ s < 2 ^ (s - 1) := by
  have hpos : (0 : Int) < 2 ^ s := by positivity
  have hlow : rnd n s * 2 ^ s ≤ n + 2 ^ (s - 1) := Int.ediv_mul_le _ hpos.ne'
  have hhigh : n + 2 ^ (s - 1) < (rnd n s + 1) * 2 ^ s := Int.lt_ediv_add_one_mul_self _ hpos
  have hhalf := two_pow_eq_two_mul_half hs
  constructor <;> linarith

end Sys2Proof.Machine

namespace Sys2Proof
open Machine

/-- Settles O41: the floor by `rnd_eq_floor`, nearest with ties up by `rnd_error_bounds`. -/
theorem roundingIsNearestTiesUp : Obligations.RoundingIsNearestTiesUp :=
  fun n _ hs => ⟨rnd_eq_floor n _, rnd_error_bounds n hs⟩

end Sys2Proof
end

section
/-! The host port (spec/10_state.md R32, R50 to R52; spec/20_memory.md R81): the CSR of each offset, and
one host step as a whole next state. -/

namespace Sys2Proof.Machine

/-! ### The CSR of an offset (Table CSR) -/

theorem csrAt_cmd_iff {off : BitVec 8} : csrAt off = .cmd ↔ off.toNat / 4 = 0 := by
  simp only [csrAt]
  split_ifs <;> simp only [true_iff, false_iff] <;> omega

theorem csrAt_status_iff {off : BitVec 8} : csrAt off = .status ↔ off.toNat / 4 = 1 := by
  simp only [csrAt]
  split_ifs <;> simp only [true_iff, false_iff] <;> omega

theorem csrAt_resultLo {off : BitVec 8} (h : off.toNat / 4 = 2) : csrAt off = .resultLo := by
  simp [csrAt, h]

theorem csrAt_resultHi {off : BitVec 8} (h : off.toNat / 4 = 3) : csrAt off = .resultHi := by
  simp [csrAt, h]

theorem csrAt_temp {off : BitVec 8} (h : off.toNat / 4 = 4) : csrAt off = .temp := by
  simp [csrAt, h]

theorem csrAt_cal {off : BitVec 8} (k : Fin 14) (h : off.toNat / 4 = 8 + k.val) :
    csrAt off = .cal k := by
  grind [csrAt]

theorem csrAt_coef {off : BitVec 8} (k : Fin 14) (h : off.toNat / 4 = 24 + k.val) :
    csrAt off = .coef k := by
  grind [csrAt]

/-- The three gaps of Table CSR. -/
theorem csrAt_unmapped {off : BitVec 8}
    (h : (5 ≤ off.toNat / 4 ∧ off.toNat / 4 ≤ 7) ∨ (22 ≤ off.toNat / 4 ∧ off.toNat / 4 ≤ 23) ∨
      38 ≤ off.toNat / 4) : csrAt off = .unmapped := by
  grind [csrAt]

/-! ### One host step -/

theorem popInput_eq {s : State} {a : Input} {rest : List Input} (h : s.inputs = a :: rest) :
    s.popInput = { s with inputs := rest } := by
  simp [State.popInput, h]

theorem step_host {s : State} {a : HostAct} {rest : List Input} (h : s.inputs = .host a :: rest) :
    step s = .next ({ s with inputs := rest }.hostAct a) := by
  rw [← popInput_eq h]
  simp only [step, h]

theorem writeStatus_eq (s : State) (w : Word) :
    s.writeStatus w =
      { s with status := { s.status with ovr := if w.getLsbD 4 then false else s.status.ovr } } := by
  have hbit : w[4] = w.getLsbD 4 := rfl
  rw [State.writeStatus, hbit]
  split <;> rfl

/-- CMD and STATUS are the only CSRs a host write can change anything through. -/
theorem hostWrite_ignored (s : State) {off : BitVec 8} (w : Word) (h : 2 ≤ off.toNat / 4) :
    s.hostWrite off w = s := by
  obtain ⟨hcmd, -⟩ | ⟨hstatus, -⟩ | ⟨-, -, hkeep⟩ := hostWrite_cases s off w
  · have := csrAt_cmd_iff.mp hcmd
    omega
  · have := csrAt_status_iff.mp hstatus
    omega
  · exact hkeep

theorem hostWrite_status (s : State) {off : BitVec 8} (w : Word) (h : off.toNat / 4 = 1) :
    s.hostWrite off w = s.writeStatus w := by
  simp [State.hostWrite, csrAt_status_iff.mpr h]

theorem hostWrite_cmd (s : State) {off : BitVec 8} (w : Word) (h : off.toNat / 4 = 0) :
    s.hostWrite off w = s.submit w := by
  simp [State.hostWrite, csrAt_cmd_iff.mpr h]

theorem submit_busy {s : State} (w : Word) (h : s.status.busy = true) :
    s.submit w = { s with status := { s.status with ovr := true } } := by
  simp [State.submit, h]

/-- The two host writes that can change OVR, each with the value it leaves there. -/
theorem hostWrite_ovr_cases {s : State} {off : BitVec 8} {w : Word}
    (h : (s.hostWrite off w).status.ovr ≠ s.status.ovr) :
    (off.toNat / 4 = 0 ∧ s.status.busy = true ∧ (s.hostWrite off w).status.ovr = true) ∨
    (off.toNat / 4 = 1 ∧ w.getLsbD 4 = true ∧ (s.hostWrite off w).status.ovr = false) := by
  obtain ⟨hcmd, heq⟩ | ⟨hstatus, heq⟩ | ⟨-, -, heq⟩ := hostWrite_cases s off w
  · obtain ⟨-, hidle⟩ | ⟨hbusy, hover⟩ := submit_cases s w
    · rw [heq, hidle] at h
      exact absurd rfl h
    · rw [heq, hover]
      exact .inl ⟨csrAt_cmd_iff.mp hcmd, hbusy, rfl⟩
  · rw [heq, writeStatus_eq] at h ⊢
    cases hbit : w.getLsbD 4 with
    | false =>
      rw [hbit] at h
      exact absurd rfl h
    | true => exact .inr ⟨csrAt_status_iff.mp hstatus, rfl, rfl⟩
  · rw [heq] at h
    exact absurd rfl h

end Sys2Proof.Machine

namespace Sys2Proof
open Machine

/-- Settles O11: offset word 1 is STATUS, and `writeStatus_eq` gives what a write there does. -/
theorem statusWriteClearsOnlyOvr : Obligations.StatusWriteClearsOnlyOvr := by
  intro s off w rest hoff hin
  rw [step_host hin, State.hostAct, hostWrite_status _ w hoff, writeStatus_eq]

/-- Settles O12: from offset word 2 up a write changes nothing (`hostWrite_ignored`). -/
theorem readOnlyWritesAreIgnored : Obligations.ReadOnlyWritesAreIgnored := by
  intro s off w rest hoff hin
  rw [step_host hin, State.hostAct, hostWrite_ignored _ w hoff]

/-- Settles O13: a read logs the value of the CSR that the map gives for its offset; every unmapped
offset lies above STATUS, so O12 covers the writes. -/
theorem hostReadsFollowTheMap : Obligations.HostReadsFollowTheMap := by
  intro s off rest
  refine ⟨fun hin => ⟨s.csrValue (csrAt off), step_host hin, fun h => ?_, fun h => ?_, fun h => ?_,
    fun h => ?_, fun h => ?_, fun k h => ?_, fun k h => ?_, fun h => ?_⟩,
    fun w h hin => readOnlyWritesAreIgnored s off w rest (by omega) hin⟩
  · rw [csrAt_cmd_iff.mpr h, State.csrValue]
  · rw [csrAt_status_iff.mpr h, State.csrValue]
  · rw [csrAt_resultLo h, State.csrValue]
  · rw [csrAt_resultHi h, State.csrValue]
  · rw [csrAt_temp h, State.csrValue]
  · rw [csrAt_cal k h, State.csrValue]
  · rw [csrAt_coef k h, State.csrValue]
  · rw [csrAt_unmapped h, State.csrValue]

end Sys2Proof
end

section
/-! OVR is no input of the BCE (spec/10_state.md R42, "No command reads or writes OVR"): each operation of
a command commutes with setting OVR, so a whole turn does. -/

namespace Sys2Proof.Machine

/-- The same state with OVR holding `b`. -/
def State.setOvr (s : State) (b : Bool) : State := { s with status := { s.status with ovr := b } }

/-- The same outcome with OVR holding `b` in its next state, where it has one. -/
def outcomeSetOvr (b : Bool) : Outcome → Outcome
  | .next t => .next (t.setOvr b)
  | .fault r => .fault r
  | .refused r => .refused r

/-- `f` neither reads OVR nor writes it. -/
def IgnoresOvr (f : State → Outcome) : Prop := ∀ s b, f (s.setOvr b) = outcomeSetOvr b (f s)

/-- `f`, which goes on inside a step, neither reads OVR nor writes it. -/
def KeepsOvr (f : State → State) : Prop := ∀ s b, f (s.setOvr b) = (f s).setOvr b

@[simp] theorem State.setOvr_seq (s : State) (b : Bool) : (s.setOvr b).seq = s.seq := rfl
@[simp] theorem State.setOvr_command (s : State) (b : Bool) : (s.setOvr b).command = s.command := rfl

/-! ### The shared operations -/

theorem goto_keepsOvr (q : Seq) : KeepsOvr (fun t => t.goto q) := fun _ _ => rfl

theorem stageResult_setOvr (s : State) (b : Bool) (k : Fin 14) (r : Option (BitVec 32)) :
    (s.setOvr b).stageResult k r = (s.stageResult k r).setOvr b := by
  cases r <;> rfl

/-- A choice that the answer of the transport alone decides. -/
theorem ite_keepsOvr {c : Prop} [Decidable c] {f g : State → State} (hf : KeepsOvr f) (hg : KeepsOvr g) :
    KeepsOvr (fun t => if c then f t else g t) := by
  intro s b
  by_cases h : c
  · simpa only [h, if_true] using hf s b
  · simpa only [h, if_false] using hg s b

theorem issue_ignoresOvr {ev : Byte → BusEvent} {k : Byte → State → State} (hk : ∀ d, KeepsOvr (k d)) :
    IgnoresOvr (issue ev k) := by
  intro s b
  cases hd : firstAnswer s.inputs with
  | none => rw [issue_stalled hd, issue_stalled (s := s.setOvr b) hd, outcomeSetOvr]
  | some d =>
    rw [issue_answered hd, issue_answered (s := s.setOvr b) hd, outcomeSetOvr, ← hk d]
    rfl

theorem finish_ignoresOvr (c : ErrCode) (w : Writes) : IgnoresOvr (finish c w) := fun _ _ => rfl

/-- A check whose condition does not see OVR. -/
theorem ite_ignoresOvr {c : State → Prop} [DecidablePred c] {f g : State → Outcome}
    (hc : ∀ s b, c (s.setOvr b) ↔ c s) (hf : IgnoresOvr f) (hg : IgnoresOvr g) :
    IgnoresOvr (fun s => if c s then f s else g s) := by
  intro s b
  by_cases h : c s
  · simpa only [hc, h, if_true] using hf s b
  · simpa only [hc, h, if_false] using hg s b

theorem memRead_ignoresOvr {at' : ReadPos → Locals → Seq} {reg : Byte} {n : Nat}
    {ok short : Locals → State → State} (hok : ∀ l, KeepsOvr (ok l)) (hshort : ∀ l, KeepsOvr (short l))
    (p : ReadPos) (l : Locals) : IgnoresOvr (memRead at' reg n ok short p l) := by
  cases p with
  | start => exact issue_ignoresOvr fun _ => goto_keepsOvr _
  | reg => exact issue_ignoresOvr fun _ => goto_keepsOvr _
  | stop => exact issue_ignoresOvr fun _ => goto_keepsOvr _
  | request => exact issue_ignoresOvr fun _ => ite_keepsOvr (hshort l) (goto_keepsOvr _)
  | byte i => exact issue_ignoresOvr fun _ => ite_keepsOvr (goto_keepsOvr _) (hok _)

/-- Every register read of the model goes on by moving SEQ, whether it ends with a value or short. -/
theorem memRead_goto_ignoresOvr (at' : ReadPos → Locals → Seq) (reg : Byte) (n : Nat)
    (onOk onShort : Locals → Seq) (p : ReadPos) (l : Locals) :
    IgnoresOvr (memRead at' reg n (fun l' t => t.goto (onOk l')) (fun l' t => t.goto (onShort l')) p l) :=
  memRead_ignoresOvr (fun _ => goto_keepsOvr _) (fun _ => goto_keepsOvr _) p l

theorem memWrite_ignoresOvr (reg v : Byte) (next : Locals → Seq) (p : WritePos) (l : Locals) :
    IgnoresOvr (memWrite reg v next p l) := by
  cases p <;> exact issue_ignoresOvr fun _ => goto_keepsOvr _

theorem rmwRead_ignoresOvr (at' : ReadPos → Locals → Seq) (reg : Byte) (onFail : Locals → Seq)
    (p : ReadPos) (l : Locals) : IgnoresOvr (rmwRead at' reg onFail p l) :=
  memRead_goto_ignoresOvr _ _ _ _ _ p l

theorem setBitWrite_ignoresOvr (reg : Byte) (pos : BitVec 3) (on : BitVec 1) (p : WritePos) (l : Locals) :
    IgnoresOvr (setBitWrite reg pos on p l) := memWrite_ignoresOvr _ _ _ p l

theorem sampleRead_ignoresOvr (reg : Byte) (p : ReadPos) (l : Locals) :
    IgnoresOvr (sampleRead reg p l) := memRead_goto_ignoresOvr _ _ _ _ _ p l

theorem whenCalibrated_ignoresOvr {body : State → Outcome} (h : IgnoresOvr body) :
    IgnoresOvr (whenCalibrated body) :=
  ite_ignoresOvr (fun _ _ => Iff.rfl) h (finish_ignoresOvr _ _)

theorem whenTemperature_ignoresOvr {body : State → Outcome} (h : IgnoresOvr body) :
    IgnoresOvr (whenTemperature body) :=
  whenCalibrated_ignoresOvr (ite_ignoresOvr (fun _ _ => Iff.rfl) h (finish_ignoresOvr _ _))

theorem finishTemp_ignoresOvr (raw : Raw) : IgnoresOvr (finishTemp raw) := fun _ _ => rfl

theorem finishPress_ignoresOvr (raw : Raw) : IgnoresOvr (finishPress raw) := fun _ _ => rfl

/-! ### The commands, by the position in SEQ -/

theorem fieldCommand_ignoresOvr (reg : Byte) (sh : BitVec 3) (val : Byte) (err : ErrCode) :
    IgnoresOvr (fieldCommand reg sh val err) := by
  intro s b
  simp only [fieldCommand, State.setOvr_seq]
  cases s.seq with
  | start => exact rmwRead_ignoresOvr ..
  | read p l => exact rmwRead_ignoresOvr ..
  | write p l => exact memWrite_ignoresOvr ..
  | finish l => exact finish_ignoresOvr ..
  | raise => exact finish_ignoresOvr ..
  | _ => rfl

theorem readCommand_ignoresOvr (reg : Byte) (n : Nat) (value : Locals → BitVec 64) (err : ErrCode) :
    IgnoresOvr (readCommand reg n value err) := by
  intro s b
  simp only [readCommand, State.setOvr_seq]
  cases s.seq with
  | start => exact memRead_goto_ignoresOvr ..
  | read p l => exact memRead_goto_ignoresOvr ..
  | finish l => exact finish_ignoresOvr ..
  | raise => exact finish_ignoresOvr ..
  | _ => rfl

theorem execWrite_ignoresOvr (reg val : Byte) : IgnoresOvr (execWrite reg val) := by
  intro s b
  simp only [execWrite, State.setOvr_seq]
  cases s.seq with
  | start => exact memWrite_ignoresOvr ..
  | write p l => exact memWrite_ignoresOvr ..
  | finish l => exact finish_ignoresOvr ..
  | _ => rfl

theorem execSetbit_ignoresOvr (reg : Byte) (bit : BitVec 3) (on : BitVec 1) :
    IgnoresOvr (execSetbit reg bit on) := by
  intro s b
  simp only [execSetbit, State.setOvr_seq]
  cases s.seq with
  | start => exact rmwRead_ignoresOvr ..
  | read p l => exact rmwRead_ignoresOvr ..
  | write p l => exact setBitWrite_ignoresOvr ..
  | finish l => exact finish_ignoresOvr ..
  | _ => rfl

theorem loadcalEnd_ignoresOvr : IgnoresOvr loadcalEnd :=
  ite_ignoresOvr (fun _ _ => Iff.rfl) (fun _ _ => rfl) (fun _ _ => rfl)

theorem nextCell_ignoresOvr (k : Fin 14) (r : Option (BitVec 32)) : IgnoresOvr (nextCell k r) := by
  intro s b
  by_cases h : k.val + 1 < 14
  · simp only [nextCell, h, dite_true]
    refine issue_ignoresOvr (fun _ t c => ?_) s b
    rw [stageResult_setOvr t c k r]
    rfl
  · simp only [nextCell, h, dite_false]
    rw [stageResult_setOvr s b k r]
    exact loadcalEnd_ignoresOvr ..

theorem execLoadcal_ignoresOvr : IgnoresOvr execLoadcal := by
  intro s b
  simp only [execLoadcal, State.setOvr_seq]
  cases s.seq with
  | start => exact issue_ignoresOvr (fun _ _ _ => rfl) s b
  | cell k p l => exact memRead_goto_ignoresOvr ..
  | afterCell k r => exact nextCell_ignoresOvr ..
  | _ => rfl

theorem execCompt_ignoresOvr (raw : Raw) : IgnoresOvr (execCompt raw) := by
  intro s b
  simp only [execCompt, State.setOvr_seq]
  cases s.seq with
  | start => exact whenCalibrated_ignoresOvr (finishTemp_ignoresOvr raw) s b
  | _ => rfl

theorem execCompp_ignoresOvr (raw : Raw) : IgnoresOvr (execCompp raw) := by
  intro s b
  simp only [execCompp, State.setOvr_seq]
  cases s.seq with
  | start => exact whenTemperature_ignoresOvr (finishPress_ignoresOvr raw) s b
  | _ => rfl

theorem execMeast_ignoresOvr : IgnoresOvr execMeast := by
  intro s b
  simp only [execMeast, State.setOvr_seq]
  cases s.seq with
  | start => exact whenCalibrated_ignoresOvr (sampleRead_ignoresOvr _ _ _) s b
  | read p l => exact sampleRead_ignoresOvr ..
  | flagRead p l => exact rmwRead_ignoresOvr ..
  | write p l => exact setBitWrite_ignoresOvr ..
  | finish l => exact finishTemp_ignoresOvr ..
  | raise => exact finish_ignoresOvr ..
  | _ => rfl

theorem execMeasp_ignoresOvr : IgnoresOvr execMeasp := by
  intro s b
  simp only [execMeasp, State.setOvr_seq]
  cases s.seq with
  | start => exact whenTemperature_ignoresOvr (sampleRead_ignoresOvr _ _ _) s b
  | read p l => exact sampleRead_ignoresOvr ..
  | flagRead p l => exact rmwRead_ignoresOvr ..
  | write p l => exact setBitWrite_ignoresOvr ..
  | finish l => exact finishPress_ignoresOvr ..
  | raise => exact finish_ignoresOvr ..
  | _ => rfl

theorem exec_ignoresOvr (i : Instr) : IgnoresOvr (exec i) := by
  cases i with
  | read w reg => exact readCommand_ignoresOvr _ _ _ _
  | write reg val => exact execWrite_ignoresOvr reg val
  | setbit reg bit on => exact execSetbit_ignoresOvr reg bit on
  | wfield reg sh val => exact fieldCommand_ignoresOvr _ _ _ _
  | loadcal => exact execLoadcal_ignoresOvr
  | compt raw => exact execCompt_ignoresOvr raw
  | compp raw => exact execCompp_ignoresOvr raw
  | meast => exact execMeast_ignoresOvr
  | measp => exact execMeasp_ignoresOvr
  | setosr osrt osrp => exact fieldCommand_ignoresOvr _ _ _ _
  | getosr => exact readCommand_ignoresOvr _ _ _ _
  | setiir iir => exact fieldCommand_ignoresOvr _ _ _ _
  | getiir => exact readCommand_ignoresOvr _ _ _ _
  | setodr odr => exact fieldCommand_ignoresOvr _ _ _ _
  | getodr => exact readCommand_ignoresOvr _ _ _ _

/-! ### The turn of the BCE -/

theorem bceStep_ignoresOvr : IgnoresOvr bceStep := by
  refine ite_ignoresOvr (fun _ _ => Iff.rfl) (fun s b => ?_) (fun _ _ => rfl)
  simp only [State.setOvr_command]
  cases s.command with
  | error e => exact finish_ignoresOvr ..
  | ok i => exact exec_ignoresOvr i s b

/-- A turn from the same state with another OVR ends in the same state with that OVR. -/
theorem bceStep_setOvr {s t : State} (b : Bool) (h : bceStep s = .next t) :
    bceStep (s.setOvr b) = .next (t.setOvr b) := by
  rw [bceStep_ignoresOvr, h, outcomeSetOvr]

/-- A turn leaves OVR: set OVR to the value it has, and `bceStep_setOvr` ends the turn with that value. -/
theorem bceStep_ovr {s t : State} (h : bceStep s = .next t) : t.status.ovr = s.status.ovr := by
  have hsame : bceStep s = .next (t.setOvr s.status.ovr) := bceStep_setOvr s.status.ovr h
  rw [h] at hsame
  injection hsame with heq
  rw [heq]
  rfl

theorem step_bceTurn {s : State} (h : (∃ d rest, s.inputs = .bce d :: rest) ∨ s.inputs = []) :
    step s = bceStep s := by
  obtain ⟨d, rest, hin⟩ | hin := h <;> simp only [step, hin]

/-- All the ways OVR changes: reset, an overrun, or a clearing write to STATUS. -/
theorem step_ovr_cases {s t : State} (hstep : step s = .next t) (hne : t.status.ovr ≠ s.status.ovr) :
    (∃ rest, s.inputs = .reset :: rest ∧ t.status.ovr = false) ∨
    (∃ off w rest, s.inputs = .host (.write off w) :: rest ∧
      ((off.toNat / 4 = 0 ∧ s.status.busy = true ∧ t.status.ovr = true) ∨
       (off.toNat / 4 = 1 ∧ w.getLsbD 4 = true ∧ t.status.ovr = false))) := by
  obtain ⟨a, rest, hin, rfl⟩ | ⟨rest, hin, rfl⟩ | ⟨-, -, hturn⟩ := step_cases hstep
  · cases a with
    | read off => exact absurd rfl hne
    | write off w => exact .inr ⟨off, w, rest, hin, hostWrite_ovr_cases hne⟩
  · exact .inl ⟨rest, hin, rfl⟩
  · exact absurd (bceStep_ovr hturn) hne

end Sys2Proof.Machine

namespace Sys2Proof
open Machine

/-- Settles O10: the overrun step by `submit_busy`, the ways OVR changes by `step_ovr_cases`, and the
BCE's independence of it by `bceStep_setOvr`. -/
theorem overrunSetsOnlyOvr : Obligations.OverrunSetsOnlyOvr := by
  refine ⟨fun s off w rest hbusy hoff hin => ?_, fun s t => step_ovr_cases, fun s t b hturn hstep => ?_⟩
  · rw [step_host hin, State.hostAct, hostWrite_cmd _ w hoff, submit_busy (s := { s with inputs := rest }) w hbusy]
  · rw [step_bceTurn hturn] at hstep
    exact (step_bceTurn (s := s.setOvr b) hturn).trans (bceStep_setOvr b hstep)

end Sys2Proof
end

section
/-! The decoder and the opcode map (spec/30_encoding.md R113): the rows are told apart by OPC, and a word
that a row's mask and match accept carries that row's OPC, so decoding by OPC finds exactly that row. -/

namespace Sys2Proof

/-! ### The rows of the opcode map -/

/-- Every row's mask keeps all of OPC, and its match holds the row's own OPC there. -/
theorem opcodeField_mask_value :
    ∀ r ∈ opcodeMap, opcodeField r.mask = BitVec.allOnes 4 ∧ opcodeField r.value = r.opc := by decide

theorem opcodeMap_opc_nodup : (opcodeMap.map OpcodeRow.opc).Nodup := by decide

/-- Two rows of the map with one OPC are one row. -/
theorem eq_of_opc_eq {r r' : OpcodeRow} (hr : r ∈ opcodeMap) (hr' : r' ∈ opcodeMap) (h : r.opc = r'.opc) :
    r = r' :=
  List.inj_on_of_nodup_map opcodeMap_opc_nodup hr hr' h

/-! ### Mask and match against OPC -/

theorem opcodeField_and (w m : Word) : opcodeField (w &&& m) = opcodeField w &&& opcodeField m :=
  BitVec.extractLsb'_and

theorem OpcodeRow.spells_iff {r : OpcodeRow} {w : Word} : r.spells w = true ↔ w &&& r.mask = r.value :=
  beq_iff_eq

/-- A word that a row's mask and match accept carries the row's OPC. -/
theorem opc_eq_of_spells {r : OpcodeRow} {w : Word} (hr : r ∈ opcodeMap) (h : r.spells w = true) :
    r.opc = opcodeField w := by
  obtain ⟨hmask, hvalue⟩ := opcodeField_mask_value r hr
  calc r.opc = opcodeField (w &&& r.mask) := by rw [OpcodeRow.spells_iff.mp h, hvalue]
    _ = opcodeField w := by rw [opcodeField_and, hmask, BitVec.and_allOnes]

/-! ### What the decoder answers -/

/-- The search by OPC finds a row exactly where the row stands in the map with that OPC. -/
theorem find?_opc_eq_some_iff {c : BitVec 4} {r : OpcodeRow} :
    opcodeMap.find? (fun r => r.opc == c) = some r ↔ r ∈ opcodeMap ∧ r.opc = c := by
  constructor
  · intro h
    exact ⟨List.mem_of_find?_eq_some h, by simpa using List.find?_some h⟩
  · rintro ⟨hr, rfl⟩
    cases hfind : opcodeMap.find? (fun r' => r'.opc == r.opc) with
    | none => simpa using List.find?_eq_none.mp hfind r hr
    | some r' =>
      have hopc : r'.opc = r.opc := by simpa using List.find?_some hfind
      rw [eq_of_opc_eq (List.mem_of_find?_eq_some hfind) hr hopc]

/-- The decoder's answer where OPC selects row `r`: the fields of `r`, unless a reserved bit is 1. -/
theorem decode_of_opc {r : OpcodeRow} {w : Word} (hr : r ∈ opcodeMap) (hopc : r.opc = opcodeField w) :
    decode w = if r.spells w then .ok (r.build w) else .error (.reservedBit r.mnemonic) := by
  simp only [decode, find?_opc_eq_some_iff.mpr ⟨hr, hopc⟩]

theorem decode_of_spells {r : OpcodeRow} {w : Word} (hr : r ∈ opcodeMap) (h : r.spells w = true) :
    decode w = .ok (r.build w) := by
  rw [decode_of_opc hr (opc_eq_of_spells hr h), if_pos h]

/-- A decoded word is spelled by a row of the map, and the command is the one that row builds. -/
theorem exists_row_of_decode {w : Word} {i : Instr} (h : decode w = .ok i) :
    ∃ r ∈ opcodeMap, r.spells w = true ∧ i = r.build w := by
  cases hfind : opcodeMap.find? (fun r => r.opc == opcodeField w) with
  | none => simp [decode, hfind] at h
  | some r =>
    obtain ⟨hr, hopc⟩ := find?_opc_eq_some_iff.mp hfind
    rw [decode_of_opc hr hopc] at h
    split_ifs at h with hspells
    injection h with hbuild
    exact ⟨r, hr, hspells, hbuild.symm⟩

/-- Settles O3: the table is the map's own literal; a decoded word comes from a row by
`exists_row_of_decode`, and a row that mask and match accept decodes to its command by `decode_of_spells`. -/
theorem wordSpellsCommandByMaskAndMatch : Obligations.WordSpellsCommandByMaskAndMatch := by
  refine ⟨rfl, fun w i => ⟨fun h => ?_, ?_⟩⟩
  · obtain ⟨r, hr, hspells, hbuild⟩ := exists_row_of_decode h
    exact ⟨r, hr, OpcodeRow.spells_iff.mp hspells, hbuild⟩
  · rintro ⟨r, hr, hmatch, rfl⟩
    exact decode_of_spells hr (OpcodeRow.spells_iff.mpr hmatch)

end Sys2Proof
end

section
/-! Decoding the words of READ, WRITE, SETBIT and WFIELD (spec/30_encoding.md R112, R113): each word has its
row's match under the row's mask, piece by piece of the format, and the row reads every operand back. -/

namespace Sys2Proof

theorem decode_encode_of_row {r : OpcodeRow} {i : Instr} (hr : r ∈ opcodeMap)
    (hspells : encode i &&& r.mask = r.value) (hbuild : r.build (encode i) = i) :
    decode (encode i) = .ok i := by
  rw [decode_of_spells hr (OpcodeRow.spells_iff.mpr hspells), hbuild]

/-- A field read from a word is settled bit by bit. -/
theorem extractLsb'_eq_of_getLsbD {start n : Nat} {w : Word} {f : BitVec n}
    (h : ∀ k < n, w.getLsbD (start + k) = f.getLsbD k) : w.extractLsb' start n = f := by
  refine BitVec.eq_of_getLsbD_eq fun k hk => ?_
  rw [BitVec.getLsbD_extractLsb', decide_eq_true hk, Bool.true_and, h k hk]

theorem decode_encode_read (w : BitVec 2) (reg : BitVec 8) :
    decode (encode (.read w reg)) = .ok (.read w reg) := by
  refine decode_encode_of_row (r := opcodeMap[0]) (List.getElem_mem _) ?_
    (congrArg₂ Instr.read (extractLsb'_eq_of_getLsbD fun k hk => ?_)
      (extractLsb'_eq_of_getLsbD fun k hk => ?_))
  · change (0x1#4 ++ 0#2 ++ w ++ 0#16 ++ reg) &&& (0xF#4 ++ 0x3#2 ++ 0#2 ++ 0xFFFF#16 ++ 0#8) = _
    simp only [BitVec.and_append, BitVec.and_zero]
    rfl
  all_goals
    simp only [encode, BitVec.getLsbD_append]
    grind

theorem decode_encode_write (reg val : BitVec 8) :
    decode (encode (.write reg val)) = .ok (.write reg val) := by
  refine decode_encode_of_row (r := opcodeMap[1]) (List.getElem_mem _) ?_
    (congrArg₂ Instr.write (extractLsb'_eq_of_getLsbD fun k hk => ?_)
      (extractLsb'_eq_of_getLsbD fun k hk => ?_))
  · change (0x2#4 ++ 0#12 ++ val ++ reg) &&& (0xF#4 ++ 0xFFF#12 ++ 0#8 ++ 0#8) = _
    simp only [BitVec.and_append, BitVec.and_zero]
    rfl
  all_goals
    simp only [encode, BitVec.getLsbD_append]
    grind

theorem decode_encode_setbit (reg : BitVec 8) (bit : BitVec 3) (on : BitVec 1) :
    decode (encode (.setbit reg bit on)) = .ok (.setbit reg bit on) := by
  refine decode_encode_of_row (r := opcodeMap[2]) (List.getElem_mem _) ?_
    (congr (congrArg₂ Instr.setbit (extractLsb'_eq_of_getLsbD fun k hk => ?_)
      (extractLsb'_eq_of_getLsbD fun k hk => ?_)) (extractLsb'_eq_of_getLsbD fun k hk => ?_))
  · change (0x3#4 ++ 0#8 ++ on ++ bit ++ 0#8 ++ reg) &&&
      (0xF#4 ++ 0xFF#8 ++ 0#1 ++ 0#3 ++ 0xFF#8 ++ 0#8) = _
    simp only [BitVec.and_append, BitVec.and_zero]
    rfl
  all_goals
    simp only [encode, BitVec.getLsbD_append]
    grind

theorem decode_encode_wfield (reg : BitVec 8) (sh : BitVec 3) (val : BitVec 8) :
    decode (encode (.wfield reg sh val)) = .ok (.wfield reg sh val) := by
  refine decode_encode_of_row (r := opcodeMap[3]) (List.getElem_mem _) ?_
    (congr (congrArg₂ Instr.wfield (extractLsb'_eq_of_getLsbD fun k hk => ?_)
      (extractLsb'_eq_of_getLsbD fun k hk => ?_)) (extractLsb'_eq_of_getLsbD fun k hk => ?_))
  · change (0x4#4 ++ 0#9 ++ sh ++ val ++ reg) &&& (0xF#4 ++ 0x1FF#9 ++ 0#3 ++ 0#8 ++ 0#8) = _
    simp only [BitVec.and_append, BitVec.and_zero]
    rfl
  all_goals
    simp only [encode, BitVec.getLsbD_append]
    grind

end Sys2Proof
end

section
/-! Whole runs (spec/10_state.md R55): a command between two of its positions issues a piece of trace and
changes nothing else, and such pieces compose. -/

namespace Sys2Proof.Machine

/-! ### The states of a run -/

/-- A command of `s` that has come to position `q` with `trace` issued and `ins` still to come. -/
def State.midway (s : State) (q : Seq) (trace : List BusEvent) (ins : List Input) : State :=
  { s with seq := q, inputs := ins, bus := s.bus ++ trace }

theorem State.midway_start {s : State} (h : s.seq = .start) : s.midway .start [] s.inputs = s := by
  rw [State.midway, List.append_nil, ← h]

/-- One completed bus primitive moves a run on by one event. -/
theorem State.midway_emit_goto (s : State) (q q' : Seq) (trace : List BusEvent) (d : Byte) (ins : List Input)
    (e : BusEvent) :
    ((s.midway q trace (.bce d :: ins)).takeTurn.emit e).goto q' = s.midway q' (trace ++ [e]) ins := by
  simp [State.midway, State.takeTurn, State.emit, State.goto]

theorem State.midway_finish (s : State) (q : Seq) (trace : List BusEvent) (d : Byte) (ins : List Input)
    (c : ErrCode) (w : Writes) :
    finish c w (s.midway q trace (.bce d :: ins)) = .next ((s.ended c trace ins).commit w) := rfl

theorem turns_append (ds es : List Byte) (rest : List Input) :
    turns (ds ++ es) rest = turns ds (turns es rest) := by
  simp [turns]

theorem runSteps_succ {k : Nat} {s t : State} (h : step s = .next t) : runSteps (k + 1) s = runSteps k t := by
  simp only [runSteps, h]

theorem runSteps_add {m k : Nat} {s t : State} (h : runSteps m s = .next t) :
    runSteps (m + k) s = runSteps k t := by
  induction m generalizing s with
  | zero =>
    injection h with h
    rw [Nat.zero_add, h]
  | succ m ih =>
    rw [Nat.add_right_comm]
    cases hs : step s with
    | next u => rw [runSteps_succ hs] at h ⊢; exact ih h
    | fault r => simp [runSteps, hs] at h
    | refused r => simp [runSteps, hs] at h

/-! ### One position -/

/-- The block of `s` is busy with command `i` (spec/10_state.md R33). -/
structure Running (i : Instr) (s : State) : Prop where
  busy : s.status.busy = true
  command : s.command = .ok i

theorem Started.running {i : Instr} {s : State} (h : Started i s) (hdec : decode (encode i) = .ok i) :
    Running i s := by
  obtain ⟨hbusy, hword, -⟩ := h
  exact ⟨hbusy, by rw [State.command, hword, hdec]⟩

/-- At position `q`, whatever has been issued and is to come, the block's turn is the step `f`. -/
def TakesStep (s : State) (q : Seq) (f : State → Outcome) : Prop :=
  ∀ trace ins, bceStep (s.midway q trace ins) = f (s.midway q trace ins)

theorem Running.takesStep {i : Instr} {s : State} {q : Seq} {f : State → Outcome} (h : Running i s)
    (hexec : ∀ trace ins, exec i (s.midway q trace ins) = f (s.midway q trace ins)) : TakesStep s q f := by
  intro trace ins
  have hbusy : (s.midway q trace ins).status.busy = true := h.busy
  have hcommand : (s.midway q trace ins).command = .ok i := h.command
  simp only [bceStep, hbusy, hcommand, if_true, hexec]

theorem TakesStep.step_eq {s : State} {q : Seq} {f : State → Outcome} (h : TakesStep s q f)
    (trace : List BusEvent) (d : Byte) (ins : List Input) :
    step (s.midway q trace (.bce d :: ins)) = f (s.midway q trace (.bce d :: ins)) :=
  (step_bceTurn (.inl ⟨d, ins, rfl⟩)).trans (h _ _)

/-! ### Pieces of a run -/

/-- From position `q`, where the transport answers `answers`, the command issues `trace` and comes to
position `q'`. -/
structure Issues (s : State) (q : Seq) (answers : List Byte) (trace : List BusEvent) (q' : Seq) : Prop where
  length_eq : answers.length = trace.length
  runs : ∀ before ins, runSteps answers.length (s.midway q before (turns answers ins)) =
    .next (s.midway q' (before ++ trace) ins)

theorem TakesStep.issues {s : State} {q q' : Seq} {ev : Byte → BusEvent} {k : Byte → State → State}
    (h : TakesStep s q (issue ev k)) (d : Byte) (hk : ∀ t, k d t = t.goto q') :
    Issues s q [d] [ev d] q' where
  length_eq := rfl
  runs before ins := by
    have hstep : step (s.midway q before (.bce d :: ins)) = .next (s.midway q' (before ++ [ev d]) ins) := by
      rw [h.step_eq, issue_answered (firstAnswer_bce d ins), hk, State.midway_emit_goto]
    exact runSteps_succ hstep

theorem Issues.trans {s : State} {q q' q'' : Seq} {ds es : List Byte} {tr tr' : List BusEvent}
    (h : Issues s q ds tr q') (h' : Issues s q' es tr' q'') : Issues s q (ds ++ es) (tr ++ tr') q'' where
  length_eq := by rw [List.length_append, List.length_append, h.length_eq, h'.length_eq]
  runs before ins := by
    rw [List.length_append, turns_append, runSteps_add (h.runs before _), h'.runs, List.append_assoc]

/-- A whole run: from the first statement to a position where the command finishes. -/
theorem runsTo_of_issues {i : Instr} {s : State} {q : Seq} {answers : List Byte} {trace : List BusEvent}
    {c : ErrCode} {w : Writes} (hdec : decode (encode i) = .ok i)
    (hissues : Running i s → Issues s .start answers trace q)
    (hfinish : Running i s → TakesStep s q (finish c w)) :
    RunsTo i answers trace s (fun rest => (s.ended c trace rest).commit w) := by
  intro last rest hstarted hinputs
  have hrun := hstarted.running hdec
  obtain ⟨-, -, hseq⟩ := hstarted
  obtain ⟨hlength, hruns⟩ := hissues hrun
  refine ⟨hlength, ?_⟩
  have hprimitives : runSteps trace.length s = .next (s.midway q trace (.bce last :: rest)) := by
    have h := hruns [] (turns [last] rest)
    rwa [← turns_append, ← hinputs, State.midway_start hseq, hlength] at h
  have hend : step (s.midway q trace (.bce last :: rest)) = .next ((s.ended c trace rest).commit w) := by
    rw [(hfinish hrun).step_eq, State.midway_finish]
  rw [runSteps_add hprimitives]
  exact runSteps_succ hend

end Sys2Proof.Machine
end

section
/-! The bytes of a read (spec/20_memory.md R88): `assembleByte` builds the little-endian sum. -/

namespace Sys2Proof.Machine

theorem leNat_append_singleton (bs : List Byte) (b : Byte) :
    leNat (bs ++ [b]) = leNat bs + b.toNat * 2 ^ (8 * bs.length) := by
  induction bs with
  | nil => simp [leNat]
  | cons a bs ih =>
    rw [List.cons_append, leNat, leNat, ih, List.length_cons, Nat.mul_add 8, Nat.pow_add]
    ring

theorem leNat_lt (bs : List Byte) : leNat bs < 2 ^ (8 * bs.length) := by
  induction bs with
  | nil => simp [leNat]
  | cons b bs ih =>
    rw [leNat, List.length_cons, Nat.mul_add 8, Nat.pow_add]
    have := b.isLt
    omega

/-- The next byte stands above all bytes so far, so its `|` is the sum. -/
theorem assembleByte_leNat (bs : List Byte) (b : Byte) :
    assembleByte (BitVec.ofNat 32 (leNat bs)) bs.length b = BitVec.ofNat 32 (leNat (bs ++ [b])) := by
  have hor : leNat (bs ++ [b]) = leNat bs ||| b.toNat <<< (8 * bs.length) := by
    rw [leNat_append_singleton, ← Nat.shiftLeft_eq, Nat.add_comm, Nat.shiftLeft_add_eq_or_of_lt (leNat_lt bs),
      Nat.or_comm]
  rw [hor, BitVec.ofNat_or, assembleByte]
  rfl

/-- The local variables once `bytes` have been read. -/
def Locals.holding (l : Locals) (bytes : List Byte) : Locals := { l with v := BitVec.ofNat 32 (leNat bytes) }

theorem Locals.holding_assembleByte (l : Locals) (bytes : List Byte) (b : Byte) :
    { l.holding bytes with v := assembleByte (l.holding bytes).v bytes.length b } =
      l.holding (bytes ++ [b]) := by
  rw [Locals.holding, assembleByte_leNat, Locals.holding]

theorem Locals.holding_byte (l : Locals) (b : Byte) : (l.holding [b]).byte = b := by
  simp [Locals.byte, Locals.holding, leNat]

end Sys2Proof.Machine
end

section
/-! MemRead and MemWrite whole (spec/40_register_access.md R140 to R142), from their first bus primitive to
where the command goes on. -/

namespace Sys2Proof.Machine

/-! ### The step at each position -/

section Positions
variable (at' : ReadPos → Locals → Seq) (reg v : Byte) (n i : Nat) (ok short : Locals → State → State)
  (next : Locals → Seq) (l : Locals)

theorem memRead_start : memRead at' reg n ok short .start l =
    issue (fun _ => .busBegin Config.devAddr) (fun _ t => t.goto (at' .reg l)) := rfl

theorem memRead_reg : memRead at' reg n ok short .reg l =
    issue (fun _ => .busWrite reg) (fun _ t => t.goto (at' .stop l)) := rfl

theorem memRead_stop : memRead at' reg n ok short .stop l =
    issue (fun _ => .busEnd) (fun _ t => t.goto (at' .request l)) := rfl

theorem memRead_request : memRead at' reg n ok short .request l =
    issue (fun avail => .busRequest Config.devAddr n avail) (fun avail t =>
      if avail.toNat < n then short l t else t.goto (at' (.byte 0) (l.holding []))) := rfl

theorem memRead_byte : memRead at' reg n ok short (.byte i) l =
    issue (fun b => .busRead b) (fun b t =>
      if i + 1 < n then t.goto (at' (.byte (i + 1)) { l with v := assembleByte l.v i b })
      else ok { l with v := assembleByte l.v i b } t) := rfl

theorem memWrite_start : memWrite reg v next .start l =
    issue (fun _ => .busBegin Config.devAddr) (fun _ t => t.goto (.write .reg l)) := rfl

theorem memWrite_reg : memWrite reg v next .reg l =
    issue (fun _ => .busWrite reg) (fun _ t => t.goto (.write .val l)) := rfl

theorem memWrite_val : memWrite reg v next .val l =
    issue (fun _ => .busWrite v) (fun _ t => t.goto (.write .stop l)) := rfl

theorem memWrite_stop : memWrite reg v next .stop l =
    issue (fun _ => .busEnd) (fun _ t => t.goto (next l)) := rfl

end Positions

/-! ### Whole reads and writes -/

/-- In `s`, `MemRead(reg, n)` begins at position `q` with locals `l`, has its other positions at `at'`, and
goes on at `onOk` or at `onShort`. -/
structure ReadsAt (s : State) (q : Seq) (l : Locals) (at' : ReadPos → Locals → Seq) (reg : Byte) (n : Nat)
    (onOk onShort : Locals → Seq) : Prop where
  entry : TakesStep s q
    (memRead at' reg n (fun l' t => t.goto (onOk l')) (fun l' t => t.goto (onShort l')) .start l)
  inside : ∀ p l, TakesStep s (at' p l)
    (memRead at' reg n (fun l' t => t.goto (onOk l')) (fun l' t => t.goto (onShort l')) p l)

section Read
variable {s : State} {q : Seq} {l : Locals} {at' : ReadPos → Locals → Seq} {reg : Byte} {n : Nat}
  {onOk onShort : Locals → Seq}

/-- Up to the count, a read issues the same three primitives whatever the transport has. -/
theorem ReadsAt.issues_request (h : ReadsAt s q l at' reg n onOk onShort) (a0 a1 a2 : Byte) :
    Issues s q [a0, a1, a2] [.busBegin Config.devAddr, .busWrite reg, .busEnd] (at' .request l) := by
  have hstart := h.entry
  have hreg := h.inside .reg l
  have hstop := h.inside .stop l
  rw [memRead_start] at hstart
  rw [memRead_reg] at hreg
  rw [memRead_stop] at hstop
  exact ((hstart.issues a0 fun _ => rfl).trans (hreg.issues a1 fun _ => rfl)).trans
    (hstop.issues a2 fun _ => rfl)

/-- Where avail < n no byte is read (R141). -/
theorem ReadsAt.issues_short (h : ReadsAt s q l at' reg n onOk onShort) (a0 a1 a2 : Byte) {avail : Byte}
    (havail : avail.toNat < n) :
    Issues s q [a0, a1, a2, avail] (readTrace reg n avail []) (onShort l) := by
  have hrequest := h.inside .request l
  rw [memRead_request] at hrequest
  exact (h.issues_request a0 a1 a2).trans (hrequest.issues avail fun _ => if_pos havail)

/-- The bytes still to be read, after `done`. -/
theorem ReadsAt.issues_bytes (h : ReadsAt s q l at' reg n onOk onShort) (b : Byte) (bs done : List Byte)
    (hlength : done.length + (bs.length + 1) = n) :
    Issues s (at' (.byte done.length) (l.holding done)) (b :: bs) ((b :: bs).map .busRead)
      (onOk (l.holding (done ++ b :: bs))) := by
  have hbyte := h.inside (.byte done.length) (l.holding done)
  rw [memRead_byte] at hbyte
  induction bs generalizing b done with
  | nil =>
    have hlast : ¬ done.length + 1 < n := by
      rw [← hlength, List.length_nil]
      omega
    exact hbyte.issues b fun t => by rw [if_neg hlast, l.holding_assembleByte]
  | cons c bs ih =>
    have hmore : done.length + 1 < n := by
      rw [← hlength, List.length_cons]
      omega
    have hfirst := hbyte.issues b (q' := at' (.byte (done ++ [b]).length) (l.holding (done ++ [b])))
      fun t => by rw [if_pos hmore, l.holding_assembleByte, List.length_append, List.length_singleton]
    have hrest := ih c (done ++ [b])
      (by rw [← hlength, List.length_append, List.length_singleton, List.length_cons]; omega) (h.inside _ _)
    rw [List.append_assoc, List.singleton_append] at hrest
    exact hfirst.trans hrest

/-- Where avail ≥ n exactly n bytes are read, the first least significant (R140, R141). -/
theorem ReadsAt.issues_ok (h : ReadsAt s q l at' reg n onOk onShort) (a0 a1 a2 : Byte) {avail : Byte}
    (hpos : 0 < n) (havail : n ≤ avail.toNat) {bytes : List Byte} (hlength : bytes.length = n) :
    Issues s q ([a0, a1, a2, avail] ++ bytes) (readTrace reg n avail bytes) (onOk (l.holding bytes)) := by
  have hrequest := h.inside .request l
  rw [memRead_request] at hrequest
  cases bytes with
  | nil => exact absurd hlength hpos.ne
  | cons b bs =>
    have hcount := hrequest.issues avail fun _ => if_neg havail.not_gt
    exact ((h.issues_request a0 a1 a2).trans hcount).trans
      (h.issues_bytes b bs [] (by rw [List.length_nil, Nat.zero_add, ← List.length_cons, hlength]))

end Read

/-- `MemWrite(reg, v)`, beginning at position `q` with locals `l`, goes on at `next` (R142). -/
theorem issues_memWrite {s : State} {q : Seq} {l : Locals} {reg v : Byte} {next : Locals → Seq}
    (hstart : TakesStep s q (memWrite reg v next .start l))
    (hinside : ∀ p, TakesStep s (.write p l) (memWrite reg v next p l)) (c0 c1 c2 c3 : Byte) :
    Issues s q [c0, c1, c2, c3] (writeTrace reg v) (next l) := by
  have hreg := hinside .reg
  have hval := hinside .val
  have hstop := hinside .stop
  rw [memWrite_start] at hstart
  rw [memWrite_reg] at hreg
  rw [memWrite_val] at hval
  rw [memWrite_stop] at hstop
  exact (((hstart.issues c0 fun _ => rfl).trans (hreg.issues c1 fun _ => rfl)).trans
    (hval.issues c2 fun _ => rfl)).trans (hstop.issues c3 fun _ => rfl)

/-- A read-modify-write whose read succeeds: the byte read, then the write-back of `new` of it
(R143, R144). -/
theorem issues_rmw {s : State} {q : Seq} {l : Locals} {at' : ReadPos → Locals → Seq} {reg : Byte}
    {new : Byte → Byte} {onFail next : Locals → Seq}
    (hread : ReadsAt s q l at' reg 1 (fun l' => .write .start l') onFail)
    (hwrite : ∀ p l, TakesStep s (.write p l) (memWrite reg (new l.byte) next p l))
    (a0 a1 a2 b c0 c1 c2 c3 : Byte) {avail : Byte} (havail : 1 ≤ avail.toNat) :
    Issues s q [a0, a1, a2, avail, b, c0, c1, c2, c3]
      (readTrace reg 1 avail [b] ++ writeTrace reg (new b)) (next (l.holding [b])) := by
  have hback := issues_memWrite (hwrite .start (l.holding [b])) (hwrite · _) c0 c1 c2 c3
  rw [Locals.holding_byte] at hback
  exact (hread.issues_ok a0 a1 a2 Nat.one_pos havail rfl).trans hback

end Sys2Proof.Machine
end

section
/-! The whole runs of READ, WRITE, SETBIT and WFIELD (spec/40_register_access.md R145 to R148). -/

namespace Sys2Proof.Machine

/-! ### The commands that are one MemRead -/

section ReadCommand
variable {i : Instr} {reg : Byte} {n : Nat} {value : Locals → BitVec 64} {err : ErrCode} {s : State}

theorem readCommand_readsAt (hexec : ∀ t, exec i t = readCommand reg n value err t) (hrun : Running i s) :
    ReadsAt s .start Locals.init .read reg n .finish (fun _ => .raise) where
  entry := hrun.takesStep fun _ _ => hexec _
  inside _ _ := hrun.takesStep fun _ _ => hexec _

theorem readCommand_runsTo_value (hdec : decode (encode i) = .ok i)
    (hexec : ∀ t, exec i t = readCommand reg n value err t) (hpos : 0 < n) (a0 a1 a2 : Byte) {avail : Byte}
    (havail : n ≤ avail.toNat) {bytes : List Byte} (hlength : bytes.length = n) :
    RunsTo i ([a0, a1, a2, avail] ++ bytes) (readTrace reg n avail bytes) s (fun rest =>
      { s.ended .none (readTrace reg n avail bytes) rest with
        result := value (Locals.init.holding bytes) }) :=
  runsTo_of_issues hdec
    (fun hrun => (readCommand_readsAt hexec hrun).issues_ok a0 a1 a2 hpos havail hlength)
    (fun hrun => hrun.takesStep fun _ _ => hexec _)

theorem readCommand_runsTo_short (hdec : decode (encode i) = .ok i)
    (hexec : ∀ t, exec i t = readCommand reg n value err t) (a0 a1 a2 : Byte) {avail : Byte}
    (havail : avail.toNat < n) :
    RunsTo i [a0, a1, a2, avail] (readTrace reg n avail []) s
      (fun rest => s.ended err (readTrace reg n avail []) rest) :=
  runsTo_of_issues hdec
    (fun hrun => (readCommand_readsAt hexec hrun).issues_short a0 a1 a2 havail)
    (fun hrun => hrun.takesStep fun _ _ => hexec _)

end ReadCommand

/-! ### The commands that are one FieldRMW -/

section FieldCommand
variable {i : Instr} {reg : Byte} {sh : BitVec 3} {val : Byte} {err : ErrCode} {s : State}

theorem fieldCommand_readsAt (hexec : ∀ t, exec i t = fieldCommand reg sh val err t) (hrun : Running i s) :
    ReadsAt s .start Locals.init .read reg 1 (fun l => .write .start l) (fun _ => .raise) where
  entry := hrun.takesStep fun _ _ => hexec _
  inside _ _ := hrun.takesStep fun _ _ => hexec _

theorem fieldCommand_runsTo_written (hdec : decode (encode i) = .ok i)
    (hexec : ∀ t, exec i t = fieldCommand reg sh val err t) (a0 a1 a2 b c0 c1 c2 c3 : Byte) {avail : Byte}
    (havail : 1 ≤ avail.toNat) :
    RunsTo i [a0, a1, a2, avail, b, c0, c1, c2, c3]
      (readTrace reg 1 avail [b] ++ writeTrace reg (fieldValue b sh val)) s
      (fun rest => s.ended .none (readTrace reg 1 avail [b] ++ writeTrace reg (fieldValue b sh val)) rest) :=
  runsTo_of_issues hdec
    (fun hrun => issues_rmw (new := fun old => fieldValue old sh val) (next := .finish)
      (fieldCommand_readsAt hexec hrun) (fun _ _ => hrun.takesStep fun _ _ => hexec _)
      a0 a1 a2 b c0 c1 c2 c3 havail)
    (fun hrun => hrun.takesStep fun _ _ => hexec _)

theorem fieldCommand_runsTo_short (hdec : decode (encode i) = .ok i)
    (hexec : ∀ t, exec i t = fieldCommand reg sh val err t) (a0 a1 a2 : Byte) {avail : Byte}
    (havail : avail.toNat = 0) :
    RunsTo i [a0, a1, a2, avail] (readTrace reg 1 avail []) s
      (fun rest => s.ended err (readTrace reg 1 avail []) rest) :=
  runsTo_of_issues hdec
    (fun hrun => (fieldCommand_readsAt hexec hrun).issues_short a0 a1 a2 (Nat.lt_one_iff.mpr havail))
    (fun hrun => hrun.takesStep fun _ _ => hexec _)

end FieldCommand

/-! ### SETBIT -/

theorem setbit_readsAt {reg : Byte} {bit : BitVec 3} {on : BitVec 1} {s : State}
    (hrun : Running (.setbit reg bit on) s) :
    ReadsAt s .start Locals.init .read reg 1 (fun l => .write .start l) .finish where
  entry := hrun.takesStep fun _ _ => rfl
  inside _ _ := hrun.takesStep fun _ _ => rfl

/-! ### The values -/

/-- READ's RESULT: four bytes fit into `v`, so zero-extending it loses nothing. -/
theorem setWidth_holding (l : Locals) {bytes : List Byte} (h : bytes.length ≤ 4) :
    (l.holding bytes).v.setWidth 64 = BitVec.ofNat 64 (leNat bytes) := by
  have hlt : leNat bytes < 2 ^ 32 := (leNat_lt bytes).trans_le (Nat.pow_le_pow_right (by decide) (by omega))
  apply BitVec.eq_of_toNat_eq
  rw [Locals.holding, BitVec.toNat_setWidth, BitVec.toNat_ofNat, BitVec.toNat_ofNat, Nat.mod_eq_of_lt hlt]

/-- SETBIT's write-back: `on << pos` is the bit itself or nothing. -/
theorem setBitValue_eq (old : Byte) (pos : BitVec 3) (on : BitVec 1) :
    setBitValue old pos on = if on = 1 then old ||| (1 <<< pos.toNat) else old := by
  obtain rfl | rfl := BitVec.eq_zero_or_eq_one on
  · simp [setBitValue]
  · rfl

/-- FieldRMW's write-back is the low byte of the OR of the naturals. -/
theorem fieldValue_eq_ofNat (old : Byte) (sh : BitVec 3) (val : Byte) :
    fieldValue old sh val = BitVec.ofNat 8 (old.toNat ||| (val.toNat * 2 ^ sh.toNat)) := by
  rw [BitVec.ofNat_or, BitVec.ofNat_toNat, BitVec.setWidth_eq, ← Nat.shiftLeft_eq]
  rfl

end Sys2Proof.Machine

namespace Sys2Proof
open Machine

/-- Settles O29: READ is one MemRead of `w + 1` bytes, at most four, so `setWidth_holding` gives RESULT. -/
theorem readRunsToItsResult : Obligations.ReadRunsToItsResult := by
  intro w reg a0 a1 a2 avail bytes s
  refine ⟨fun havail hlength => ?_, fun havail => ?_⟩
  · have hfour : bytes.length ≤ 4 := by omega
    rw [← setWidth_holding Locals.init hfour]
    exact readCommand_runsTo_value (decode_encode_read w reg) (fun _ => rfl) (Nat.succ_pos _) a0 a1 a2
      havail hlength
  · exact readCommand_runsTo_short (decode_encode_read w reg) (fun _ => rfl) a0 a1 a2 havail

/-- Settles O30: WRITE is one MemWrite, and then its finish. -/
theorem writeRunsToItsEnd : Obligations.WriteRunsToItsEnd := by
  intro reg val a0 a1 a2 a3 s
  refine runsTo_of_issues (q := .finish Locals.init) (w := {}) (decode_encode_write reg val)
    (fun hrun => ?_) (fun hrun => hrun.takesStep fun _ _ => rfl)
  exact issues_memWrite (hrun.takesStep fun _ _ => rfl) (fun _ => hrun.takesStep fun _ _ => rfl) a0 a1 a2 a3

/-- Settles O31: SETBIT goes from its read to the write-back of `setBitValue`, or straight to the same
finish where the read is short. -/
theorem setbitRunsSilently : Obligations.SetbitRunsSilently := by
  intro reg bit on a0 a1 a2 avail b c0 c1 c2 c3 s new
  have hnew : new = setBitValue b bit on := (setBitValue_eq b bit on).symm
  have hdec := decode_encode_setbit reg bit on
  refine ⟨fun havail => ?_, fun havail => ?_⟩
  · rw [hnew]
    exact runsTo_of_issues (w := {}) hdec
      (fun hrun => issues_rmw (new := fun old => setBitValue old bit on) (next := .finish)
        (setbit_readsAt hrun) (fun _ _ => hrun.takesStep fun _ _ => rfl) a0 a1 a2 b c0 c1 c2 c3 havail)
      (fun hrun => hrun.takesStep fun _ _ => rfl)
  · exact runsTo_of_issues (w := {}) hdec
      (fun hrun => (setbit_readsAt hrun).issues_short a0 a1 a2 (Nat.lt_one_iff.mpr havail))
      (fun hrun => hrun.takesStep fun _ _ => rfl)

/-- Settles O32: WFIELD is one FieldRMW, whose write-back `fieldValue_eq_ofNat` gives on naturals. -/
theorem wfieldRunsCumulatively : Obligations.WfieldRunsCumulatively := by
  intro reg sh val a0 a1 a2 avail b c0 c1 c2 c3 s new
  have hnew : new = fieldValue b sh val := (fieldValue_eq_ofNat b sh val).symm
  have hdec := decode_encode_wfield reg sh val
  refine ⟨fun havail => ?_, fun havail => ?_⟩
  · rw [hnew]
    exact fieldCommand_runsTo_written hdec (fun _ => rfl) a0 a1 a2 b c0 c1 c2 c3 havail
  · exact fieldCommand_runsTo_short hdec (fun _ => rfl) a0 a1 a2 havail

end Sys2Proof
end

section
/-! Calibration cells as numbers (spec/41_calibration.md R181, spec/10_state.md R47): what a decoded cell and
a CSR view stand for, and the values a cell can hold. -/

namespace Sys2Proof.Machine

/-! ### The number a read decodes to -/

/-- A read of at most two bytes is its low 16 bits. -/
theorem toNat_setWidth_sixteen {v : BitVec 32} (h : v.toNat < 65536) : (v.setWidth 16).toNat = v.toNat := by
  rw [BitVec.toNat_setWidth, Nat.mod_eq_of_lt h]

/-- A read of one byte is its low 8 bits. -/
theorem toNat_setWidth_eight {v : BitVec 32} (h : v.toNat < 256) : (v.setWidth 8).toNat = v.toNat := by
  rw [BitVec.toNat_setWidth, Nat.mod_eq_of_lt h]

theorem cellInt_decodeCell_u16 {v : BitVec 32} (h : v.toNat < 65536) :
    cellInt .u16 (decodeCell .u16 v) = v.toNat :=
  congrArg Nat.cast (toNat_setWidth_sixteen h)

theorem cellInt_decodeCell_s16 {v : BitVec 32} (h : v.toNat < 65536) :
    cellInt .s16 (decodeCell .s16 v) = if v.toNat < 32768 then (v.toNat : Int) else v.toNat - 65536 := by
  rw [cellInt, decodeCell, BitVec.toInt_eq_toNat_cond, toNat_setWidth_sixteen h]
  split <;> split <;> omega

/-- Sign-extending an s8 to the 16 bits of an element keeps its number (log entry 7). -/
theorem cellInt_decodeCell_s8_eq_toInt (v : BitVec 32) :
    cellInt .s8 (decodeCell .s8 v) = (v.setWidth 8).toInt :=
  BitVec.toInt_signExtend_of_le (by decide)

theorem cellInt_decodeCell_s8 {v : BitVec 32} (h : v.toNat < 256) :
    cellInt .s8 (decodeCell .s8 v) = if v.toNat < 128 then (v.toNat : Int) else v.toNat - 256 := by
  rw [cellInt_decodeCell_s8_eq_toInt, BitVec.toInt_eq_toNat_cond, toNat_setWidth_eight h]
  split <;> split <;> omega

/-! ### The values of a cell -/

theorem cellInRange_s8_iff {c : CellWord} : cellInRange .s8 c = true ↔ -128 ≤ c.toInt ∧ c.toInt ≤ 127 := by
  simp [cellInRange]

theorem cellInRange_decodeCell (ty : CellType) (v : BitVec 32) : cellInRange ty (decodeCell ty v) = true := by
  cases ty with
  | u16 => rfl
  | s16 => rfl
  | s8 =>
    have hvalue : (decodeCell .s8 v).toInt = (v.setWidth 8).toInt := cellInt_decodeCell_s8_eq_toInt v
    have hlow := BitVec.le_toInt (v.setWidth 8)
    have hhigh := BitVec.toInt_lt (x := v.setWidth 8)
    rw [cellInRange_s8_iff, hvalue]
    omega

theorem cellInRange_of_calInRange {cal : Vector CellWord 14} (h : calInRange cal = true) (k : Fin 14) :
    cellInRange (cellRow k).type cal[k] = true :=
  List.all_eq_true.mp h k (List.mem_finRange k)

theorem toInt_cellWord_bounds (c : CellWord) : -32768 ≤ c.toInt ∧ c.toInt ≤ 32767 := by
  have hlow := BitVec.le_toInt c
  have hhigh := BitVec.toInt_lt (x := c)
  omega

theorem cellInt_bounds (ty : CellType) (c : CellWord) : -32768 ≤ cellInt ty c ∧ cellInt ty c ≤ 65535 := by
  have hunsigned := c.isLt
  have hsigned := toInt_cellWord_bounds c
  cases ty <;> rw [cellInt] <;> omega

/-! ### The CSR view -/

theorem calView_eq_ofInt (cal : Vector CellWord 14) (k : Fin 14) :
    calView cal k = BitVec.ofInt 32 (cellInt (cellRow k).type cal[k]) := by
  cases hty : (cellRow k).type with
  | u16 =>
    simp only [calView, hty, cellInt]
    rw [BitVec.ofInt_natCast, BitVec.ofNat_toNat]
  | s16 =>
    simp only [calView, hty, cellInt]
    rfl
  | s8 =>
    simp only [calView, hty, cellInt]
    rfl

end Sys2Proof.Machine

namespace Sys2Proof
open Machine

/-- Settles O39: one equation for each cell type, and the view sign- or zero-extends the same number. -/
theorem cellsDecodeByType : Obligations.CellsDecodeByType :=
  ⟨fun _ => cellInt_decodeCell_u16, fun _ => cellInt_decodeCell_s16, fun _ => cellInt_decodeCell_s8,
    cellInRange_decodeCell, calView_eq_ofInt⟩

end Sys2Proof
end

section
/-! The coefficients (spec/41_calibration.md R184 to R186): mantissas by cell type, their ranges, and that 32
bits hold them. -/

namespace Sys2Proof.Machine

variable {cal : Vector CellWord 14} {k : Fin 14}

/-! ### The mantissa of a cell of each type -/

/-- p1 and p2 are the coefficients with the offset 2^14, and their cells are s16 (R185). -/
theorem mantissa_of_offset (cal : Vector CellWord 14) (hk : k = 3 ∨ k = 4) :
    mantissa cal k = cal[k].toInt - 16384 := by
  have hty : (cellRow k).type = .s16 := by obtain rfl | rfl := hk <;> rfl
  rw [mantissa, if_pos hk, hty, cellInt]

theorem mantissa_of_no_offset (cal : Vector CellWord 14) (hk : ¬(k = 3 ∨ k = 4)) :
    mantissa cal k = cellInt (cellRow k).type cal[k] := if_neg hk

theorem no_offset_of_type_ne_s16 (hty : (cellRow k).type ≠ .s16) : ¬(k = 3 ∨ k = 4) := by
  rintro (rfl | rfl) <;> exact hty rfl

theorem mantissa_of_u16 (cal : Vector CellWord 14) (hty : (cellRow k).type = .u16) :
    mantissa cal k = cal[k].toNat := by
  rw [mantissa_of_no_offset cal (no_offset_of_type_ne_s16 (by simp [hty])), hty, cellInt]

theorem mantissa_of_s8 (cal : Vector CellWord 14) (hty : (cellRow k).type = .s8) :
    mantissa cal k = cal[k].toInt := by
  rw [mantissa_of_no_offset cal (no_offset_of_type_ne_s16 (by simp [hty])), hty, cellInt]

/-! ### Ranges -/

theorem mantissa_bounds_of_u16 (cal : Vector CellWord 14) (hty : (cellRow k).type = .u16) :
    0 ≤ mantissa cal k ∧ mantissa cal k ≤ 65535 := by
  have hlt := cal[k].isLt
  rw [mantissa_of_u16 cal hty]
  omega

/-- This range alone rests on CAL holding values of its cells' types (spec/10_state.md R47). -/
theorem mantissa_bounds_of_s8 (hcal : calInRange cal = true) (hty : (cellRow k).type = .s8) :
    -128 ≤ mantissa cal k ∧ mantissa cal k ≤ 127 := by
  have hcell := cellInRange_of_calInRange hcal k
  rw [hty, cellInRange_s8_iff] at hcell
  rwa [mantissa_of_s8 cal hty]

theorem mantissa_bounds_of_offset (cal : Vector CellWord 14) (hk : k = 3 ∨ k = 4) :
    -49152 ≤ mantissa cal k ∧ mantissa cal k ≤ 16383 := by
  have hbounds := toInt_cellWord_bounds cal[k]
  rw [mantissa_of_offset cal hk]
  omega

theorem mantissa_bounds (cal : Vector CellWord 14) (k : Fin 14) :
    -49152 ≤ mantissa cal k ∧ mantissa cal k ≤ 65535 := by
  have hcell := cellInt_bounds (cellRow k).type cal[k]
  rw [mantissa]
  split <;> omega

/-! ### The CSR view -/

/-- Every mantissa fits into an s32, so COEF_k loses nothing (spec/10_state.md R48). -/
theorem coefView_toInt (cal : Vector CellWord 14) (k : Fin 14) : (coefView cal k).toInt = mantissa cal k := by
  have hbounds := mantissa_bounds cal k
  exact BitVec.toInt_ofInt_eq_self (by decide) (by omega) (by omega)

end Sys2Proof.Machine

namespace Sys2Proof
open Machine

/-- Settles O40: the list of mantissas and exponents is `mantissa` and `exponent` evaluated at each row of the
cell table; each range is that of one cell type, or of p1 and p2. -/
theorem coefficientsAreExact : Obligations.CoefficientsAreExact := by
  intro cal
  have hunsigned : ∀ k ∈ ([0, 1, 7, 8] : List (Fin 14)), (cellRow k).type = .u16 := by decide
  have hbyte : ∀ k ∈ ([2, 5, 6, 9, 10, 12, 13] : List (Fin 14)), (cellRow k).type = .s8 := by decide
  have hoffset : ∀ k ∈ ([3, 4] : List (Fin 14)), k = 3 ∨ k = 4 := by decide
  refine ⟨rfl, coefView_toInt cal, fun _ => rfl,
    fun hcal => ⟨fun k hk => ?_, fun k hk => ?_, fun k hk => ?_, ?_⟩⟩
  · exact mantissa_bounds_of_u16 cal (hunsigned k hk)
  · exact mantissa_bounds_of_s8 hcal (hbyte k hk)
  · exact mantissa_bounds_of_offset cal (hoffset k hk)
  · exact toInt_cellWord_bounds cal[11]

end Sys2Proof
end

section
/-! What the cell reads of a LOADCAL leave in STAGE and STAGE_OK (spec/41_calibration.md R182): the outcomes
staged one after another, from a STAGE_OK of 0. -/

namespace Sys2Proof.Machine

/-- What MemRead of cell `k` returns (spec/40_register_access.md R141). -/
def CellReply.outcome (r : CellReply) (k : Fin 14) : Option (BitVec 32) :=
  if r.good k then some (BitVec.ofNat 32 (leNat r.bytes)) else none

theorem CellReply.outcome_good {r : CellReply} {k : Fin 14} (h : r.good k = true) :
    r.outcome k = some (BitVec.ofNat 32 (leNat r.bytes)) := if_pos h

theorem CellReply.outcome_short {r : CellReply} {k : Fin 14} (h : r.good k = false) :
    r.outcome k = none := if_neg (ne_true_of_eq_false h)

/-- The state with the outcomes of the cells `ks` staged, in that order. -/
def State.stageCells (rs : Fin 14 → CellReply) (ks : List (Fin 14)) (s : State) : State :=
  ks.foldl (fun t k => t.stageResult k ((rs k).outcome k)) s

variable (rs : Fin 14 → CellReply)

theorem State.stageCells_cons (k : Fin 14) (ks : List (Fin 14)) (s : State) :
    s.stageCells rs (k :: ks) = (s.stageResult k ((rs k).outcome k)).stageCells rs ks := rfl

theorem State.stageCells_concat (ks : List (Fin 14)) (k : Fin 14) (s : State) :
    s.stageCells rs (ks ++ [k]) = (s.stageCells rs ks).stageResult k ((rs k).outcome k) := by
  rw [stageCells, List.foldl_concat]
  rfl

/-- Staging touches STAGE and STAGE_OK alone. -/
theorem State.stageCells_frame (ks : List (Fin 14)) (s : State) :
    s.stageCells rs ks =
      { s with stage := (s.stageCells rs ks).stage, stageOk := (s.stageCells rs ks).stageOk } := by
  induction ks generalizing s with
  | nil => rfl
  | cons k ks ih =>
    rw [stageCells_cons, ih]
    cases (rs k).outcome k <;> rfl

/-- STAGE_OK counts the good reads. -/
theorem State.stageCells_stageOk (ks : List (Fin 14)) (s : State) :
    (s.stageCells rs ks).stageOk = s.stageOk + BitVec.ofNat 4 (ks.countP fun k => (rs k).good k) := by
  induction ks generalizing s with
  | nil => exact (BitVec.add_zero _).symm
  | cons k ks ih =>
    rw [stageCells_cons, ih, List.countP_cons]
    cases hgood : (rs k).good k with
    | true =>
      rw [CellReply.outcome_good hgood, stageResult_some, stageCell_stageOk, if_pos rfl, BitVec.add_assoc,
        BitVec.ofNat_add, BitVec.add_comm 1]
      rfl
    | false => rw [CellReply.outcome_short hgood, stageResult_none, if_neg Bool.false_ne_true, Nat.add_zero]

/-- Where the reads of `ks` are all good, each of them holds its decoded value. -/
theorem State.stageCells_stage {ks : List (Fin 14)} (hgood : ∀ k ∈ ks, (rs k).good k = true) (s : State)
    (j : Fin 14) :
    (s.stageCells rs ks).stage[j] = if j ∈ ks then (loadedCells rs)[j] else s.stage[j] := by
  induction ks generalizing s with
  | nil => rfl
  | cons k ks ih =>
    obtain ⟨hk, hks⟩ := List.forall_mem_cons.mp hgood
    rw [stageCells_cons, ih hks, CellReply.outcome_good hk, stageResult_some, stageCell_stage]
    by_cases hj : j ∈ ks
    · simp [hj]
    · by_cases hjk : j = k
      · simp [hjk, loadedCells]
      · have hne : k.val ≠ j.val := fun h => hjk (Fin.ext h.symm)
        simp [hj, hjk, hne]

theorem goodReads_eq_iff : goodReads rs = 14 ↔ ∀ k, (rs k).good k = true := by
  have hcount := List.countP_eq_length (p := fun k => (rs k).good k) (l := List.finRange 14)
  rw [List.length_finRange] at hcount
  simpa [goodReads] using hcount

theorem goodReads_le : goodReads rs ≤ 14 :=
  List.countP_le_length.trans_eq List.length_finRange

/-- The state after all 14 outcomes have been staged. -/
def State.stageAll (s : State) : State := s.clearStageOk.stageCells rs (List.finRange 14)

theorem State.stageAll_stageOk (s : State) : (s.stageAll rs).stageOk = BitVec.ofNat 4 (goodReads rs) := by
  rw [stageAll, stageCells_stageOk]
  exact BitVec.zero_add _

theorem State.stageAll_stageOk_eq_iff (s : State) : (s.stageAll rs).stageOk = 14 ↔ goodReads rs = 14 := by
  have hle := goodReads_le rs
  rw [stageAll_stageOk, ← BitVec.toNat_inj, BitVec.toNat_ofNat, Nat.mod_eq_of_lt (by omega)]
  rfl

theorem State.stageAll_stage (s : State) (hall : goodReads rs = 14) :
    (s.stageAll rs).stage = loadedCells rs := by
  refine Vector.ext fun j hj => ?_
  have hgood : ∀ k ∈ List.finRange 14, (rs k).good k = true := fun k _ => (goodReads_eq_iff rs).mp hall k
  exact (stageCells_stage rs hgood s.clearStageOk ⟨j, hj⟩).trans (if_pos (List.mem_finRange _))

/-- Only STAGE and STAGE_OK differ from the state that the command started in. -/
theorem State.stageAll_frame (s : State) :
    s.stageAll rs = { s with stage := (s.stageAll rs).stage, stageOk := (s.stageAll rs).stageOk } :=
  stageCells_frame rs (List.finRange 14) s.clearStageOk

end Sys2Proof.Machine
end

section
/-! The whole run of LOADCAL (spec/41_calibration.md R182, R183): the read of each cell, the staging of its
outcome with the step after it, and the end. -/

namespace Sys2Proof.Machine

/-! ### Pieces of a run between which the command writes block state -/

/-- From position `q` of `s`, where the transport answers `answers`, the command issues `trace` and comes to
position `q'`, the other fields being then those of `s'`. -/
structure Leads (s : State) (q : Seq) (answers : List Byte) (trace : List BusEvent) (s' : State)
    (q' : Seq) : Prop where
  length_eq : answers.length = trace.length
  runs : ∀ before ins, runSteps answers.length (s.midway q before (turns answers ins)) =
    .next (s'.midway q' (before ++ trace) ins)

theorem Leads.trans {s s' s'' : State} {q q' q'' : Seq} {ds es : List Byte} {tr tr' : List BusEvent}
    (h : Leads s q ds tr s' q') (h' : Leads s' q' es tr' s'' q'') :
    Leads s q (ds ++ es) (tr ++ tr') s'' q'' where
  length_eq := by rw [List.length_append, List.length_append, h.length_eq, h'.length_eq]
  runs before ins := by
    rw [List.length_append, turns_append, runSteps_add (h.runs before _), h'.runs, List.append_assoc]

theorem runSteps_succ_congr {k : Nat} {s t : State} (h : step s = step t) :
    runSteps (k + 1) s = runSteps (k + 1) t := by
  simp only [runSteps, h]

/-- At position `q` of `s` the block takes the step it would take at position `q'` of `s'`. -/
def StepsAs (s : State) (q : Seq) (s' : State) (q' : Seq) : Prop :=
  ∀ before d ins, step (s.midway q before (.bce d :: ins)) = step (s'.midway q' before (.bce d :: ins))

/-- Two positions with the same first step begin the same run. -/
theorem StepsAs.leads {s s' : State} {q q' q'' : Seq} {d : Byte} {ds : List Byte} {trace : List BusEvent}
    (h : StepsAs s q s' q') (hissues : Issues s' q' (d :: ds) trace q'') :
    Leads s q (d :: ds) trace s' q'' where
  length_eq := hissues.length_eq
  runs before ins :=
    (runSteps_succ_congr (h before d (turns ds ins))).trans (hissues.runs before ins)

theorem Running.congr {i : Instr} {s t : State} (h : Running i s) (hstatus : t.status = s.status)
    (hcmdlat : t.cmdlat = s.cmdlat) : Running i t where
  busy := by rw [hstatus, h.busy]
  command := by rw [State.command, hcmdlat, ← h.command, State.command]

/-! ### One cell -/

section Cells
variable {s : State} {rs : Fin 14 → CellReply}

theorem State.stageResult_midway (s : State) (k : Fin 14) (r : Option (BitVec 32)) (q : Seq)
    (trace : List BusEvent) (ins : List Input) :
    (s.midway q trace ins).stageResult k r = (s.stageResult k r).midway q trace ins := by
  cases r <;> rfl

theorem cell_readsAt (hrun : Running .loadcal s) (k : Fin 14) :
    ReadsAt s (.cell k .start Locals.init) Locals.init (.cell k) (cellRow k).addr (cellRow k).width
      (fun l => .afterCell k (some l.v)) (fun _ => .afterCell k none) where
  entry := hrun.takesStep fun _ _ => rfl
  inside _ _ := hrun.takesStep fun _ _ => rfl

theorem cellRow_width_pos : ∀ k, 0 < (cellRow k).width := by decide

/-- The read of a cell from its first primitive, whether it succeeds or not: it does not end the loop
(R182). -/
theorem issues_cell (hrun : Running .loadcal s) {k : Fin 14} {r : CellReply}
    (hbytes : r.good k = true → r.bytes.length = (cellRow k).width) :
    Issues s (.cell k .start Locals.init) (r.answers k) (r.trace k) (.afterCell k (r.outcome k)) := by
  rw [CellReply.answers, CellReply.trace, CellReply.taken]
  cases hgood : r.good k with
  | true =>
    rw [CellReply.outcome_good hgood]
    exact (cell_readsAt hrun k).issues_ok r.a0 r.a1 r.a2 (cellRow_width_pos k) (of_decide_eq_true hgood)
      (hbytes hgood)
  | false =>
    rw [CellReply.outcome_short hgood]
    exact (cell_readsAt hrun k).issues_short r.a0 r.a1 r.a2 (Nat.lt_of_not_le (of_decide_eq_false hgood))

/-- The first step begins the read of cell 0, and clears STAGE_OK. -/
theorem start_stepsAs (hrun : Running .loadcal s) :
    StepsAs s .start s.clearStageOk (.cell 0 .start Locals.init) := by
  intro before d ins
  have hstart : TakesStep s .start execLoadcal := hrun.takesStep fun _ _ => rfl
  have hcell := (cell_readsAt (hrun.congr (t := s.clearStageOk) rfl rfl) 0).entry
  rw [hstart.step_eq, hcell.step_eq]
  rfl

/-- The step after a cell begins the read of the next one, and stages what the cell returned. -/
theorem afterCell_stepsAs (hrun : Running .loadcal s) {k : Fin 14} (hk : k.val + 1 < 14)
    (r : Option (BitVec 32)) :
    StepsAs s (.afterCell k r) (s.stageResult k r) (.cell ⟨k.val + 1, hk⟩ .start Locals.init) := by
  intro before d ins
  have hafter : TakesStep s (.afterCell k r) (nextCell k r) := hrun.takesStep fun _ _ => rfl
  have hnext := hrun.congr (s.stageResult_status k r) (s.stageResult_cmdlat k r)
  rw [hafter.step_eq, (cell_readsAt hnext ⟨k.val + 1, hk⟩).entry.step_eq, nextCell, dif_pos hk]
  cases r <;> rfl

/-- The step after cell 13 ends the command, with what that cell returned staged. -/
theorem afterCell_last_takesStep (hrun : Running .loadcal s) (r : Option (BitVec 32)) :
    TakesStep s (.afterCell 13 r) (fun t => loadcalEnd (t.stageResult 13 r)) :=
  hrun.takesStep fun _ _ => rfl

/-! ### All cells -/

theorem Running.stageCells (hrun : Running .loadcal s) (rs : Fin 14 → CellReply) (ks : List (Fin 14)) :
    Running .loadcal (s.clearStageOk.stageCells rs ks) :=
  hrun.congr (by rw [State.stageCells_frame]; rfl) (by rw [State.stageCells_frame]; rfl)

/-- The cells before cell `m`, in table order. -/
def cellsBefore (m : Nat) : List (Fin 14) := (List.finRange 14).take m

theorem cellsBefore_succ {m : Nat} (hm : m < 14) : cellsBefore (m + 1) = cellsBefore m ++ [⟨m, hm⟩] := by
  have hlength : m < (List.finRange 14).length := by rwa [List.length_finRange]
  rw [cellsBefore, List.take_succ_eq_append_getElem hlength, List.getElem_finRange]
  rfl

/-- By induction on the cells: the reads follow one another, each after the staging of those before it. -/
theorem leads_afterCell (hrun : Running .loadcal s)
    (hbytes : ∀ k, (rs k).good k = true → (rs k).bytes.length = (cellRow k).width) (m : Nat) (hm : m < 14) :
    Leads s .start ((cellsBefore (m + 1)).flatMap fun k => (rs k).answers k)
      ((cellsBefore (m + 1)).flatMap fun k => (rs k).trace k)
      (s.clearStageOk.stageCells rs (cellsBefore m)) (.afterCell ⟨m, hm⟩ ((rs ⟨m, hm⟩).outcome ⟨m, hm⟩)) := by
  rw [cellsBefore_succ hm, List.flatMap_append, List.flatMap_append, List.flatMap_singleton,
    List.flatMap_singleton]
  induction m with
  | zero =>
    have hclear := hrun.congr (t := s.clearStageOk) rfl rfl
    exact (start_stepsAs hrun).leads (issues_cell hclear (hbytes 0))
  | succ m ih =>
    have hm' : m < 14 := Nat.lt_of_succ_lt hm
    have hbefore := ih hm'
    have hcell := issues_cell (hrun.stageCells rs (cellsBefore (m + 1))) (hbytes ⟨m + 1, hm⟩)
    rw [cellsBefore_succ hm', State.stageCells_concat] at hcell ⊢
    rw [List.flatMap_append, List.flatMap_append, List.flatMap_singleton, List.flatMap_singleton]
    exact hbefore.trans ((afterCell_stepsAs (hrun.stageCells rs _) hm _).leads hcell)

end Cells

/-! ### The whole command -/

section Loadcal
variable {s : State} {rs : Fin 14 → CellReply}

theorem State.stageAll_eq_stageResult (s : State) (rs : Fin 14 → CellReply) :
    s.stageAll rs = (s.clearStageOk.stageCells rs (cellsBefore 13)).stageResult 13 ((rs 13).outcome 13) :=
  stageCells_concat rs (cellsBefore 13) 13 s.clearStageOk

/-- All reads, then the end of the command in the state with all outcomes staged. -/
theorem loadcal_runSteps {t : State} {last : Byte} {rest : List Input}
    (hbytes : ∀ k, (rs k).good k = true → (rs k).bytes.length = (cellRow k).width)
    (hstarted : Started .loadcal s) (hinputs : s.inputs = turns (loadAnswers rs ++ [last]) rest)
    (hend : ∀ q, loadcalEnd ((s.stageAll rs).midway q (loadTrace rs) (.bce last :: rest)) = .next t) :
    runSteps ((loadTrace rs).length + 1) s = .next t := by
  have hrun : Running .loadcal s := hstarted.running (by decide)
  obtain ⟨-, -, hseq⟩ := hstarted
  have hreads : Leads s .start (loadAnswers rs) (loadTrace rs)
      (s.clearStageOk.stageCells rs (cellsBefore 13)) (.afterCell 13 ((rs 13).outcome 13)) :=
    leads_afterCell hrun hbytes 13 (by decide)
  have hprimitives := hreads.runs [] (turns [last] rest)
  rw [← turns_append, ← hinputs, State.midway_start hseq, hreads.length_eq] at hprimitives
  rw [runSteps_add hprimitives]
  apply runSteps_succ
  rw [turns, List.map_singleton, List.singleton_append, List.nil_append,
    (afterCell_last_takesStep (hrun.stageCells rs _) _).step_eq, State.stageResult_midway,
    ← State.stageAll_eq_stageResult, hend]

/-- The end with all 14 reads good (R183). -/
theorem loadcalEnd_stageAll_complete (hall : goodReads rs = 14) (q : Seq) (trace : List BusEvent) (d : Byte)
    (ins : List Input) :
    loadcalEnd ((s.stageAll rs).midway q trace (.bce d :: ins)) =
      .next (((s.stageAll rs).ended .none trace ins).commit
        { calOk := some 14, tValid := some false, cal := some (loadedCells rs), calValid := some true }) := by
  have hcount : (s.stageAll rs).stageOk = 14 := (State.stageAll_stageOk_eq_iff rs s).mpr hall
  rw [← State.stageAll_stage rs s hall, ← hcount]
  exact if_pos hcount

/-- The end with a short read among the 14: CAL is not written (R183). -/
theorem loadcalEnd_stageAll_incomplete (hshort : goodReads rs ≠ 14) (q : Seq) (trace : List BusEvent)
    (d : Byte) (ins : List Input) :
    loadcalEnd ((s.stageAll rs).midway q trace (.bce d :: ins)) =
      .next (((s.stageAll rs).ended .calIncomplete trace ins).commit
        { calOk := some (BitVec.ofNat 4 (goodReads rs)), tValid := some false, calValid := some false }) := by
  have hcount : (s.stageAll rs).stageOk ≠ 14 := mt (State.stageAll_stageOk_eq_iff rs s).mp hshort
  rw [← State.stageAll_stageOk rs s]
  exact if_neg hcount

end Loadcal

end Sys2Proof.Machine

namespace Sys2Proof
open Machine

/-- Settles O33: `loadcal_runSteps` brings the command to its end with all outcomes staged, and by
`State.stageAll_frame` the staging has changed nothing that the statement speaks of. -/
theorem loadcalRunsAllOrNothing : Obligations.LoadcalRunsAllOrNothing := by
  refine ⟨rfl, fun rs s last rest hbytes hstarted hinputs => ?_⟩
  by_cases hall : goodReads rs = 14
  · refine ⟨_, loadcal_runSteps hbytes hstarted hinputs fun q =>
      loadcalEnd_stageAll_complete hall q (loadTrace rs) last rest, ?_⟩
    rw [State.stageAll_frame]
    simp [State.ended, hall]
  · refine ⟨_, loadcal_runSteps hbytes hstarted hinputs fun q =>
      loadcalEnd_stageAll_incomplete hall q (loadTrace rs) last rest, ?_⟩
    rw [State.stageAll_frame]
    simp [State.ended, hall]

end Sys2Proof
end

section
/-! The ranges of the datapath (spec/42_compensation.md R218), by the triangle inequality: each stage lemma
bounds the stage by its own formula at the greatest magnitudes of its inputs. -/

namespace Sys2Proof.Machine

/-! ### Magnitudes of sums, products, shifts and rounded values -/

section Magnitudes
variable {a b A B : Int}

theorem abs_add_le_of_le (ha : |a| ≤ A) (hb : |b| ≤ B) : |a + b| ≤ A + B :=
  (abs_add_le a b).trans (add_le_add ha hb)

theorem abs_mul_le_of_le (ha : |a| ≤ A) (hb : |b| ≤ B) : |a * b| ≤ A * B := by
  rw [abs_mul]
  exact mul_le_mul ha hb (abs_nonneg b) ((abs_nonneg a).trans ha)

theorem abs_shl_le_of_le (ha : |a| ≤ A) (k : Nat) : |shl a k| ≤ shl A k :=
  abs_mul_le_of_le ha (abs_of_nonneg (by positivity)).le

/-- A value less than half a unit beyond `B` units rounds to at most `B`, on either side of 0. -/
theorem abs_rnd_le {n : Int} {s : Nat} (hs : 1 ≤ s) (hn : |n| < B * 2 ^ s + 2 ^ (s - 1)) : |rnd n s| ≤ B := by
  obtain ⟨hlow, hhigh⟩ := rnd_error_bounds n hs
  obtain ⟨hnlow, hnhigh⟩ := abs_lt.mp hn
  have hhalf := two_pow_eq_two_mul_half hs
  have hpos : (0 : Int) < 2 ^ s := by positivity
  have habove : rnd n s < B + 1 := lt_of_mul_lt_mul_right (by linarith) hpos.le
  have hbelow : -(B + 1) < rnd n s := lt_of_mul_lt_mul_right (by linarith) hpos.le
  rw [abs_le]
  omega

end Magnitudes

/-! ### Magnitudes of the inputs -/

theorem abs_raw_le (raw : Raw) : |(raw.toNat : Int)| ≤ 2 ^ 24 - 1 := by
  have hlt := raw.isLt
  rw [abs_le]
  omega

section Mantissas
variable {cal : Vector CellWord 14} {k : Fin 14}

theorem abs_mantissa_le_of_u16 (cal : Vector CellWord 14) (hty : (cellRow k).type = .u16) :
    |mantissa cal k| ≤ 65535 := by
  obtain ⟨hlow, hhigh⟩ := mantissa_bounds_of_u16 cal hty
  rw [abs_le]
  omega

theorem abs_mantissa_le_of_s8 (hcal : calInRange cal = true) (hty : (cellRow k).type = .s8) :
    |mantissa cal k| ≤ 128 := by
  obtain ⟨hlow, hhigh⟩ := mantissa_bounds_of_s8 hcal hty
  rw [abs_le]
  omega

theorem abs_mantissa_le_of_offset (cal : Vector CellWord 14) (hk : k = 3 ∨ k = 4) :
    |mantissa cal k| ≤ 49152 := by
  obtain ⟨hlow, hhigh⟩ := mantissa_bounds_of_offset cal hk
  rw [abs_le]
  omega

/-- p9 is the one s16 cell without an offset. -/
theorem abs_mantissa_p9_le (cal : Vector CellWord 14) : |mantissa cal 11| ≤ 32768 := by
  obtain ⟨hlow, hhigh⟩ := toInt_cellWord_bounds cal[11]
  have hvalue : mantissa cal 11 = cal[11].toInt := mantissa_of_no_offset cal (by decide)
  rw [hvalue, abs_le]
  omega

end Mantissas

/-! ### The temperature unit (R213) -/

section Temperature
variable {cal : Vector CellWord 14}

/-- Both terms of TS1 lie in `0 .. 2^24 - 1`. -/
theorem abs_tempD1_le (cal : Vector CellWord 14) (raw : Raw) : |tempD1 cal raw| ≤ 2 ^ 24 - 1 := by
  have hraw := raw.isLt
  obtain ⟨hlow, hhigh⟩ := mantissa_bounds_of_u16 cal (k := 0) rfl
  rw [tempD1, shl, abs_le]
  omega

theorem abs_tempAcc_le (cal : Vector CellWord 14) (raw : Raw) :
    |tempAcc cal raw| ≤ shl ((2 ^ 24 - 1) * 65535) 18 :=
  abs_shl_le_of_le (abs_mul_le_of_le (abs_tempD1_le cal raw) (abs_mantissa_le_of_u16 cal rfl)) 18

theorem abs_tempSq_le (cal : Vector CellWord 14) (raw : Raw) :
    |tempSq cal raw| ≤ (2 ^ 24 - 1) * (2 ^ 24 - 1) :=
  abs_mul_le_of_le (abs_tempD1_le cal raw) (abs_tempD1_le cal raw)

theorem abs_tempN_le (hcal : calInRange cal = true) (raw : Raw) :
    |tempN cal raw| ≤ shl ((2 ^ 24 - 1) * 65535) 18 + (2 ^ 24 - 1) * (2 ^ 24 - 1) * 128 :=
  abs_add_le_of_le (abs_tempAcc_le cal raw)
    (abs_mul_le_of_le (abs_tempSq_le cal raw) (abs_mantissa_le_of_s8 hcal rfl))

/-- The temperature bound of R218. -/
theorem abs_tempComp_le (hcal : calInRange cal = true) (raw : Raw) : |tempComp cal raw| ≤ 1207943088 :=
  abs_rnd_le (by decide) ((abs_tempN_le hcal raw).trans_lt (by norm_num [shl]))

end Temperature

/-! ### The pressure unit (R215) -/

section Pressure
variable {cal : Vector CellWord 14} {t T : Int}

theorem abs_pressT2_le (ht : |t| ≤ T) : |pressT2 t| ≤ pressT2 T := abs_mul_le_of_le ht ht

theorem abs_pressT3_le (ht : |t| ≤ T) : |pressT3 t| ≤ pressT3 T :=
  abs_mul_le_of_le (abs_pressT2_le ht) ht

theorem abs_pressO_le (hcal : calInRange cal = true) (ht : |t| ≤ T) :
    |pressO cal t| ≤ shl 65535 78 + shl (65535 * T) 49 + shl (128 * pressT2 T) 27 + 128 * pressT3 T := by
  have hp5 := abs_mantissa_le_of_u16 cal (k := 7) rfl
  have hp6 := abs_mantissa_le_of_u16 cal (k := 8) rfl
  have hp7 := abs_mantissa_le_of_s8 hcal (k := 9) rfl
  have hp8 := abs_mantissa_le_of_s8 hcal (k := 10) rfl
  have hconstant := abs_shl_le_of_le hp5 78
  have hlinear := abs_shl_le_of_le (abs_mul_le_of_le hp6 ht) 49
  have hsquare := abs_shl_le_of_le (abs_mul_le_of_le hp7 (abs_pressT2_le ht)) 27
  have hcube := abs_mul_le_of_le hp8 (abs_pressT3_le ht)
  exact abs_add_le_of_le (abs_add_le_of_le (abs_add_le_of_le hconstant hlinear) hsquare) hcube

theorem abs_pressS_le (hcal : calInRange cal = true) (ht : |t| ≤ T) :
    |pressS cal t| ≤ shl 49152 77 + shl (49152 * T) 48 + shl (128 * pressT2 T) 25 + 128 * pressT3 T := by
  have hp1 := abs_mantissa_le_of_offset cal (k := 3) (.inl rfl)
  have hp2 := abs_mantissa_le_of_offset cal (k := 4) (.inr rfl)
  have hp3 := abs_mantissa_le_of_s8 hcal (k := 5) rfl
  have hp4 := abs_mantissa_le_of_s8 hcal (k := 6) rfl
  have hconstant := abs_shl_le_of_le hp1 77
  have hlinear := abs_shl_le_of_le (abs_mul_le_of_le hp2 ht) 48
  have hsquare := abs_shl_le_of_le (abs_mul_le_of_le hp3 (abs_pressT2_le ht)) 25
  have hcube := abs_mul_le_of_le hp4 (abs_pressT3_le ht)
  exact abs_add_le_of_le (abs_add_le_of_le (abs_add_le_of_le hconstant hlinear) hsquare) hcube

theorem abs_pressU2_le (up : Raw) : |pressU2 up| ≤ (2 ^ 24 - 1) * (2 ^ 24 - 1) :=
  abs_mul_le_of_le (abs_raw_le up) (abs_raw_le up)

theorem abs_pressU3_le (up : Raw) : |pressU3 up| ≤ (2 ^ 24 - 1) * (2 ^ 24 - 1) * (2 ^ 24 - 1) :=
  abs_mul_le_of_le (abs_pressU2_le up) (abs_raw_le up)

theorem abs_pressK_le (hcal : calInRange cal = true) (ht : |t| ≤ T) :
    |pressK cal t| ≤ shl 32768 20 + 128 * T :=
  abs_add_le_of_le (abs_shl_le_of_le (abs_mantissa_p9_le cal) 20)
    (abs_mul_le_of_le (abs_mantissa_le_of_s8 hcal rfl) ht)

theorem abs_pressQ_le (hcal : calInRange cal = true) (up : Raw) (ht : |t| ≤ T) :
    |pressQ cal up t| ≤ (2 ^ 24 - 1) * (2 ^ 24 - 1) * (shl 32768 20 + 128 * T) +
      shl ((2 ^ 24 - 1) * (2 ^ 24 - 1) * (2 ^ 24 - 1) * 128) 3 :=
  abs_add_le_of_le (abs_mul_le_of_le (abs_pressU2_le up) (abs_pressK_le hcal ht))
    (abs_shl_le_of_le (abs_mul_le_of_le (abs_pressU3_le up) (abs_mantissa_le_of_s8 hcal rfl)) 3)

/-- The bound of R218 on the pressure, at the scale of N_P and before rounding. -/
theorem abs_pressN_le (hcal : calInRange cal = true) (up : Raw) (ht : |t| ≤ 1207943088) :
    |pressN cal up t| ≤ 154458834128129156 * 2 ^ 65 := by
  have hO := abs_shl_le_of_le (abs_pressO_le hcal ht) 22
  have hS := abs_mul_le_of_le (abs_raw_le up) (abs_pressS_le hcal ht)
  have hQ := abs_shl_le_of_le (abs_pressQ_le hcal up ht) 29
  exact (abs_add_le_of_le (abs_add_le_of_le hO hS) hQ).trans (by norm_num [shl, pressT2, pressT3])

/-- The pressure bound of R218. -/
theorem abs_pressComp_le (hcal : calInRange cal = true) (up : Raw) (ht : |t| ≤ 1207943088) :
    |pressComp cal up t| ≤ 154458834128129156 :=
  abs_rnd_le (by decide) ((abs_pressN_le hcal up ht).trans_lt (by norm_num))

end Pressure

/-! ### The words that hold the results -/

/-- TEMP holds the temperature exactly (R218). -/
theorem tempWord_toInt {cal : Vector CellWord 14} (hcal : calInRange cal = true) (raw : Raw) :
    (tempWord cal raw).toInt = tempComp cal raw := by
  obtain ⟨hlow, hhigh⟩ := abs_le.mp (abs_tempComp_le hcal raw)
  exact BitVec.toInt_ofInt_eq_self (by decide) (by omega) (by omega)

/-- RESULT holds the pressure exactly, at every stored temperature in the range of R218. -/
theorem pressWord_toInt {cal : Vector CellWord 14} (hcal : calInRange cal = true) (raw : Raw)
    {temp : BitVec 32} (htemp : |temp.toInt| ≤ 1207943088) :
    (pressWord cal raw temp).toInt = pressComp cal raw temp.toInt := by
  obtain ⟨hlow, hhigh⟩ := abs_le.mp (abs_pressComp_le hcal raw htemp)
  exact BitVec.toInt_ofInt_eq_self (by decide) (by omega) (by omega)

end Sys2Proof.Machine
end

section
/-! COMPT and COMPP, each its one finish step (spec/42_compensation.md R220, R221). -/

namespace Sys2Proof.Machine

/-- A finish step ends the command with its buffered writes visible. -/
theorem finish_eq_ended (c : ErrCode) (w : Writes) (s : State) :
    finish c w s = .next ((s.ended c [] (afterTurn s.inputs)).commit w) := by
  rw [State.ended, List.append_nil]
  rfl

theorem exec_compt_start {s : State} (raw : Raw) (hseq : s.seq = .start) :
    exec (.compt raw) s = whenCalibrated (finishTemp raw) s := by
  simp only [exec, execCompt, hseq]

theorem exec_compp_start {s : State} (raw : Raw) (hseq : s.seq = .start) :
    exec (.compp raw) s = whenTemperature (finishPress raw) s := by
  simp only [exec, execCompp, hseq]

end Sys2Proof.Machine

namespace Sys2Proof
open Machine

/-- Settles O23: CAL_VALID decides between the refusal and the finish, and the 32 bits hold every temperature
(`tempWord_toInt`). -/
theorem comptStoresTheTemperature : Obligations.ComptStoresTheTemperature := by
  intro raw s hseq
  rw [exec_compt_start raw hseq]
  refine ⟨fun hcal => ?_, fun hcal => ⟨tempWord s.cal raw, ?_, rfl, fun hrange => tempWord_toInt hrange raw⟩⟩
  · rw [whenCalibrated_false hcal, finish_eq_ended]
    rfl
  · rw [whenCalibrated_true hcal, finishTemp, finish_eq_ended]
    rfl

/-- Settles O24: the two checks decide between the refusals and the finish, and the 64 bits hold every
pressure at a temperature in range (`pressWord_toInt`). -/
theorem comppReturnsThePressure : Obligations.ComppReturnsThePressure := by
  intro raw s hseq
  rw [exec_compp_start raw hseq]
  refine ⟨fun hcal => ?_, fun hcal htemp => ?_, fun hcal htemp => ⟨pressWord s.cal raw s.temp, ?_, rfl,
    fun hrange hbound => pressWord_toInt hrange raw hbound⟩⟩
  · rw [whenTemperature_uncalibrated hcal, finish_eq_ended]
    rfl
  · rw [whenTemperature_false hcal htemp, finish_eq_ended]
    rfl
  · rw [whenTemperature_true hcal htemp, finishPress, finish_eq_ended]
    rfl

end Sys2Proof
end

section
/-! The whole runs of MEAST and MEASP (spec/42_compensation.md R222, R223): the read of the sample, the
SetBitRMW of the flag with its outcome ignored, and the finish that compensates the sample. -/

namespace Sys2Proof.Machine

/-! ### The kept sample -/

/-- The local variables once the value read is kept as the raw sample. -/
def Locals.keepSample (l : Locals) : Locals := { l with sample := l.raw }

/-- The sample that a read of `bytes` leaves is their little-endian sum, to 24 bits. -/
theorem Locals.keepSample_holding_sample (l : Locals) (bytes : List Byte) :
    (l.holding bytes).keepSample.sample = BitVec.ofNat 24 (leNat bytes) := by
  rw [keepSample, raw, holding]
  exact BitVec.setWidth_ofNat_of_le (show 24 ≤ 32 by decide) _

/-! ### A measurement -/

/-- In `s` the command reads a raw sample of `reg`, sets `bit` of power control, and finishes with the writes
`w` of the sample; a short read of the sample raises MEASUREMENT. -/
structure Measures (s : State) (reg : Byte) (bit : BitVec 3) (w : Raw → Writes) : Prop where
  sample : ReadsAt s .start Locals.init .read reg 3 (fun l => .flagRead .start l.keepSample) (fun _ => .raise)
  flag : ∀ l, ReadsAt s (.flagRead .start l) l .flagRead regPowerControl 1 (fun l => .write .start l) .finish
  flagWrite : ∀ p l, TakesStep s (.write p l) (setBitWrite regPowerControl bit 1 p l)
  compensation : ∀ l, TakesStep s (.finish l) (finish .none (w l.sample))
  error : TakesStep s .raise (finish .measurement {})

section Measurement
variable {i : Instr} {s : State} {reg : Byte} {bit : BitVec 3} {w : Raw → Writes} {avail avail' : Byte}

theorem Measures.issues_sample (h : Measures s reg bit w) (a0 a1 a2 b0 b1 b2 : Byte)
    (havail : 3 ≤ avail.toNat) :
    Issues s .start [a0, a1, a2, avail, b0, b1, b2] (readTrace reg 3 avail [b0, b1, b2])
      (.flagRead .start (Locals.init.holding [b0, b1, b2]).keepSample) :=
  h.sample.issues_ok a0 a1 a2 (by decide) havail (bytes := [b0, b1, b2]) rfl

theorem Measures.issues_flag (h : Measures s reg bit w) (l : Locals) (c0 c1 c2 p e0 e1 e2 e3 : Byte)
    (havail' : 1 ≤ avail'.toNat) :
    Issues s (.flagRead .start l) [c0, c1, c2, avail', p, e0, e1, e2, e3]
      (readTrace regPowerControl 1 avail' [p] ++ writeTrace regPowerControl (setBitValue p bit 1))
      (.finish (l.holding [p])) :=
  issues_rmw (new := fun old => setBitValue old bit 1) (h.flag l) h.flagWrite c0 c1 c2 p e0 e1 e2 e3 havail'

/-- The finish compensates the sample of the first read, whatever the flag's read has left in `v`. -/
theorem Measures.finish_of_sample (h : Measures s reg bit w) {bytes : List Byte} {l : Locals}
    (hl : l.sample = (Locals.init.holding bytes).keepSample.sample) :
    TakesStep s (.finish l) (finish .none (w (BitVec.ofNat 24 (leNat bytes)))) := by
  rw [← Locals.keepSample_holding_sample Locals.init, ← hl]
  exact h.compensation l

theorem runsTo_measured (hdec : decode (encode i) = .ok i) (h : Running i s → Measures s reg bit w)
    (a0 a1 a2 b0 b1 b2 c0 c1 c2 p e0 e1 e2 e3 : Byte) (havail : 3 ≤ avail.toNat)
    (havail' : 1 ≤ avail'.toNat) :
    let trace := readTrace reg 3 avail [b0, b1, b2] ++ readTrace regPowerControl 1 avail' [p] ++
      writeTrace regPowerControl (setBitValue p bit 1)
    RunsTo i [a0, a1, a2, avail, b0, b1, b2, c0, c1, c2, avail', p, e0, e1, e2, e3] trace s
      (fun rest => (s.ended .none trace rest).commit (w (BitVec.ofNat 24 (leNat [b0, b1, b2])))) := by
  intro trace
  have htrace : trace = readTrace reg 3 avail [b0, b1, b2] ++
      (readTrace regPowerControl 1 avail' [p] ++ writeTrace regPowerControl (setBitValue p bit 1)) :=
    List.append_assoc _ _ _
  rw [htrace]
  exact runsTo_of_issues hdec
    (fun hrun => ((h hrun).issues_sample a0 a1 a2 b0 b1 b2 havail).trans
      ((h hrun).issues_flag _ c0 c1 c2 p e0 e1 e2 e3 havail'))
    (fun hrun => (h hrun).finish_of_sample rfl)

/-- A short read of power control is silent: no write-back, and the same finish (R143). -/
theorem runsTo_measured_unflagged (hdec : decode (encode i) = .ok i) (h : Running i s → Measures s reg bit w)
    (a0 a1 a2 b0 b1 b2 c0 c1 c2 : Byte) (havail : 3 ≤ avail.toNat) (havail' : avail'.toNat = 0) :
    let trace := readTrace reg 3 avail [b0, b1, b2] ++ readTrace regPowerControl 1 avail' []
    RunsTo i [a0, a1, a2, avail, b0, b1, b2, c0, c1, c2, avail'] trace s
      (fun rest => (s.ended .none trace rest).commit (w (BitVec.ofNat 24 (leNat [b0, b1, b2])))) :=
  runsTo_of_issues hdec
    (fun hrun => ((h hrun).issues_sample a0 a1 a2 b0 b1 b2 havail).trans
      (((h hrun).flag _).issues_short c0 c1 c2 (Nat.lt_one_iff.mpr havail')))
    (fun hrun => (h hrun).finish_of_sample rfl)

theorem runsTo_measurement_error (hdec : decode (encode i) = .ok i) (h : Running i s → Measures s reg bit w)
    (a0 a1 a2 : Byte) (havail : avail.toNat < 3) :
    RunsTo i [a0, a1, a2, avail] (readTrace reg 3 avail []) s
      (fun rest => s.ended .measurement (readTrace reg 3 avail []) rest) :=
  runsTo_of_issues hdec (fun hrun => (h hrun).sample.issues_short a0 a1 a2 havail)
    (fun hrun => (h hrun).error)

end Measurement

/-! ### Refusal at the first statement -/

theorem Issues.nil (s : State) (q : Seq) : Issues s q [] [] q where
  length_eq := rfl
  runs before ins := by
    rw [List.append_nil]
    rfl

/-- A command whose first step is already its finish issues nothing. -/
theorem runsTo_refused {i : Instr} {s : State} {c : ErrCode} (hdec : decode (encode i) = .ok i)
    (hfinish : Running i s → TakesStep s .start (finish c {})) :
    RunsTo i [] [] s (fun rest => s.ended c [] rest) :=
  runsTo_of_issues hdec (fun _ => Issues.nil s .start) hfinish

/-! ### The two commands -/

theorem exec_meast_start {s : State} (hseq : s.seq = .start) :
    exec .meast s = whenCalibrated (sampleRead regTempRaw .start Locals.init) s := by
  simp only [exec, execMeast, hseq]

theorem exec_measp_start {s : State} (hseq : s.seq = .start) :
    exec .measp s = whenTemperature (sampleRead regPressRaw .start Locals.init) s := by
  simp only [exec, execMeasp, hseq]

/-- Past its check, MEAST measures the temperature. -/
theorem meast_measures {s : State} (hcal : s.status.calValid = true) (hrun : Running .meast s) :
    Measures s regTempRaw tempEnableBit fun raw =>
      { temp := some (tempWord s.cal raw), tValid := some true,
        result := some ((tempWord s.cal raw).signExtend 64) } where
  sample :=
    { entry := hrun.takesStep fun _ _ => (exec_meast_start rfl).trans (whenCalibrated_true hcal)
      inside := fun _ _ => hrun.takesStep fun _ _ => rfl }
  flag _ :=
    { entry := hrun.takesStep fun _ _ => rfl
      inside := fun _ _ => hrun.takesStep fun _ _ => rfl }
  flagWrite _ _ := hrun.takesStep fun _ _ => rfl
  compensation _ := hrun.takesStep fun _ _ => rfl
  error := hrun.takesStep fun _ _ => rfl

/-- Past its checks, MEASP measures the pressure at the stored TEMP (R224). -/
theorem measp_measures {s : State} (hcal : s.status.calValid = true) (htemp : s.status.tValid = true)
    (hrun : Running .measp s) :
    Measures s regPressRaw pressEnableBit fun raw => { result := some (pressWord s.cal raw s.temp) } where
  sample :=
    { entry := hrun.takesStep fun _ _ => (exec_measp_start rfl).trans (whenTemperature_true hcal htemp)
      inside := fun _ _ => hrun.takesStep fun _ _ => rfl }
  flag _ :=
    { entry := hrun.takesStep fun _ _ => rfl
      inside := fun _ _ => hrun.takesStep fun _ _ => rfl }
  flagWrite _ _ := hrun.takesStep fun _ _ => rfl
  compensation _ := hrun.takesStep fun _ _ => rfl
  error := hrun.takesStep fun _ _ => rfl

end Sys2Proof.Machine

namespace Sys2Proof
open Machine

/-- Settles O34: the check decides between the refusal and the measurement, whose three outcomes are those of
its two reads; `setBitValue` at `tempEnableBit` is the OR with 0x02. -/
theorem meastRunsToItsTemperature : Obligations.MeastRunsToItsTemperature := by
  intro a0 a1 a2 avail b0 b1 b2 c0 c1 c2 avail' p e0 e1 e2 e3 s
  have hdec : decode (encode .meast) = .ok .meast := by decide
  refine ⟨fun hcal => ?_, fun hcal => ⟨fun havail havail' => ?_, fun havail havail' => ?_, fun havail => ?_⟩⟩
  · exact runsTo_refused hdec fun hrun => hrun.takesStep fun _ _ =>
      (exec_meast_start rfl).trans (whenCalibrated_false hcal)
  · exact runsTo_measured hdec (meast_measures hcal) a0 a1 a2 b0 b1 b2 c0 c1 c2 p e0 e1 e2 e3 havail havail'
  · exact runsTo_measured_unflagged hdec (meast_measures hcal) a0 a1 a2 b0 b1 b2 c0 c1 c2 havail havail'
  · exact runsTo_measurement_error hdec (meast_measures hcal) a0 a1 a2 havail

/-- Settles O35: as for MEAST, after two checks, in their order; `setBitValue` at `pressEnableBit` is the OR
with 0x01. -/
theorem measpRunsToItsPressure : Obligations.MeaspRunsToItsPressure := by
  intro a0 a1 a2 avail b0 b1 b2 c0 c1 c2 avail' p e0 e1 e2 e3 s
  have hdec : decode (encode .measp) = .ok .measp := by decide
  refine ⟨fun hcal => ?_, fun hcal htemp => ?_, fun hcal htemp =>
    ⟨fun havail havail' => ?_, fun havail havail' => ?_, fun havail => ?_⟩⟩
  · exact runsTo_refused hdec fun hrun => hrun.takesStep fun _ _ =>
      (exec_measp_start rfl).trans (whenTemperature_uncalibrated hcal)
  · exact runsTo_refused hdec fun hrun => hrun.takesStep fun _ _ =>
      (exec_measp_start rfl).trans (whenTemperature_false hcal htemp)
  · exact runsTo_measured hdec (measp_measures hcal htemp) a0 a1 a2 b0 b1 b2 c0 c1 c2 p e0 e1 e2 e3 havail
      havail'
  · exact runsTo_measured_unflagged hdec (measp_measures hcal htemp) a0 a1 a2 b0 b1 b2 c0 c1 c2 havail havail'
  · exact runsTo_measurement_error hdec (measp_measures hcal htemp) a0 a1 a2 havail

end Sys2Proof
end

section
/-! The whole runs of the six configuration commands (spec/43_configuration.md R264 to R270): each setter is
one FieldRMW and each getter one MemRead, so what is left to say is their words, their packed codes and the
value of RESULT. -/

namespace Sys2Proof

/-! ### Decoding the words of the setters (spec/30_encoding.md R112, R113) -/

theorem decode_encode_setosr (osrt osrp : BitVec 3) :
    decode (encode (.setosr osrt osrp)) = .ok (.setosr osrt osrp) := by
  refine decode_encode_of_row (r := opcodeMap[9]) (List.getElem_mem _) ?_
    (congrArg₂ Instr.setosr (extractLsb'_eq_of_getLsbD fun k hk => ?_)
      (extractLsb'_eq_of_getLsbD fun k hk => ?_))
  · change (0xA#4 ++ 0#22 ++ osrt ++ osrp) &&& (0xF#4 ++ 0x3FFFFF#22 ++ 0#3 ++ 0#3) = _
    simp only [BitVec.and_append, BitVec.and_zero]
    rfl
  all_goals
    simp only [encode, BitVec.getLsbD_append]
    grind

theorem decode_encode_setiir (iir : BitVec 3) : decode (encode (.setiir iir)) = .ok (.setiir iir) := by
  refine decode_encode_of_row (r := opcodeMap[11]) (List.getElem_mem _) ?_
    (congrArg Instr.setiir BitVec.extractLsb'_append_eq_right)
  change (0xC#4 ++ 0#25 ++ iir) &&& (0xF#4 ++ 0x1FFFFFF#25 ++ 0#3) = _
  simp only [BitVec.and_append, BitVec.and_zero]
  rfl

theorem decode_encode_setodr (odr : BitVec 5) : decode (encode (.setodr odr)) = .ok (.setodr odr) := by
  refine decode_encode_of_row (r := opcodeMap[13]) (List.getElem_mem _) ?_
    (congrArg Instr.setodr BitVec.extractLsb'_append_eq_right)
  change (0xE#4 ++ 0#23 ++ odr) &&& (0xF#4 ++ 0x7FFFFF#23 ++ 0#5) = _
  simp only [BitVec.and_append, BitVec.and_zero]
  rfl

end Sys2Proof

namespace Sys2Proof.Machine

/-! ### The packed codes and the values of RESULT -/

/-- A field laid above another one, the bits above both zero, is the OR of the two at their places. -/
theorem shiftLeft_or_eq_append (k : Nat) {m n : Nat} (high : BitVec m) (low : BitVec n) :
    (high.setWidth (k + m + n) <<< n) ||| low.setWidth (k + m + n) = 0#k ++ high ++ low := by
  refine BitVec.eq_of_getLsbD_eq fun j hj => ?_
  simp only [BitVec.getLsbD_or, BitVec.getLsbD_shiftLeft, BitVec.getLsbD_setWidth, BitVec.getLsbD_append]
  grind

theorem packOsr_eq_append (osrt osrp : BitVec 3) : packOsr osrt osrp = 0#2 ++ osrt ++ osrp :=
  shiftLeft_or_eq_append 2 osrt osrp

theorem osrResult_eq_append (b : Byte) : osrResult b = 0#50 ++ b.extractLsb' 0 6 ++ b :=
  shiftLeft_or_eq_append 50 (b.extractLsb' 0 6) b

theorem iirResult_eq_append (b : Byte) : iirResult b = 0#53 ++ b.extractLsb' 1 3 ++ b :=
  shiftLeft_or_eq_append 53 (b.extractLsb' 1 3) b

theorem odrResult_eq_append (b : Byte) : odrResult b = 0#51 ++ b.extractLsb' 0 5 ++ b :=
  shiftLeft_or_eq_append 51 (b.extractLsb' 0 5) b

theorem fieldValue_zero (old val : Byte) : fieldValue old 0 val = old ||| val :=
  congrArg (old ||| ·) (BitVec.shiftLeft_zero val)

/-- SETIIR's field stands at bit 1. -/
theorem fieldValue_one_iir (old : Byte) (iir : BitVec 3) :
    fieldValue old 1 (iir.setWidth 8) = old ||| (0#4 ++ iir ++ 0#1) := by
  rw [← shiftLeft_or_eq_append, BitVec.setWidth_zero, BitVec.or_zero]
  rfl

theorem setWidth_odr (odr : BitVec 5) : odr.setWidth 8 = 0#3 ++ odr :=
  BitVec.setWidth_eq_append (by decide)

/-! ### The two kinds of run -/

section Configuration
variable {i : Instr} {reg : Byte}

/-- A command that is one FieldRMW whose write-back ORs `code` into the register. -/
theorem fieldCommand_runsTo_or {sh : BitVec 3} {val code : Byte} (hdec : decode (encode i) = .ok i)
    (hexec : ∀ t, exec i t = fieldCommand reg sh val .configuration t)
    (hcode : ∀ old, fieldValue old sh val = old ||| code)
    (a0 a1 a2 avail b c0 c1 c2 c3 : Byte) (s : State) :
    (1 ≤ avail.toNat →
      RunsTo i [a0, a1, a2, avail, b, c0, c1, c2, c3]
        (readTrace reg 1 avail [b] ++ writeTrace reg (b ||| code)) s
        (fun rest => s.ended .none (readTrace reg 1 avail [b] ++ writeTrace reg (b ||| code)) rest)) ∧
    (avail.toNat = 0 →
      RunsTo i [a0, a1, a2, avail] (readTrace reg 1 avail []) s
        (fun rest => s.ended .configuration (readTrace reg 1 avail []) rest)) := by
  refine ⟨fun havail => ?_, fun havail => ?_⟩
  · rw [← hcode b]
    exact fieldCommand_runsTo_written hdec hexec a0 a1 a2 b c0 c1 c2 c3 havail
  · exact fieldCommand_runsTo_short hdec hexec a0 a1 a2 havail

/-- A command that is one MemRead of a byte and returns `value` of it. -/
theorem readCommand_runsTo_byte {value : Byte → BitVec 64} (hdec : decode (encode i) = .ok i)
    (hexec : ∀ t, exec i t = readCommand reg 1 (fun l => value l.byte) .configuration t)
    (a0 a1 a2 avail b : Byte) (s : State) :
    (1 ≤ avail.toNat →
      RunsTo i [a0, a1, a2, avail, b] (readTrace reg 1 avail [b]) s
        (fun rest => { s.ended .none (readTrace reg 1 avail [b]) rest with result := value b })) ∧
    (avail.toNat = 0 →
      RunsTo i [a0, a1, a2, avail] (readTrace reg 1 avail []) s
        (fun rest => s.ended .configuration (readTrace reg 1 avail []) rest)) := by
  refine ⟨fun havail => ?_, fun havail => ?_⟩
  · have hrun := readCommand_runsTo_value (s := s) hdec hexec Nat.one_pos a0 a1 a2 havail (bytes := [b]) rfl
    rwa [Locals.holding_byte] at hrun
  · exact readCommand_runsTo_short hdec hexec a0 a1 a2 (Nat.lt_one_iff.mpr havail)

end Configuration

end Sys2Proof.Machine

namespace Sys2Proof
open Machine

/-- Settles O36: each setter is one FieldRMW, which ORs its code, packed and at its place, into the byte. -/
theorem settersRunCumulatively : Obligations.SettersRunCumulatively := by
  rintro i reg code (⟨osrt, osrp, rfl, rfl, rfl⟩ | ⟨iir, rfl, rfl, rfl⟩ | ⟨odr, rfl, rfl, rfl⟩)
  · exact fieldCommand_runsTo_or (decode_encode_setosr osrt osrp) (fun _ => rfl) fun old => by
      rw [fieldValue_zero, packOsr_eq_append]
  · exact fieldCommand_runsTo_or (decode_encode_setiir iir) (fun _ => rfl) (fieldValue_one_iir · iir)
  · exact fieldCommand_runsTo_or (decode_encode_setodr odr) (fun _ => rfl) fun old => by
      rw [fieldValue_zero, setWidth_odr]

/-- Settles O37: each getter is one MemRead of a byte, whose value is the field laid above that byte. -/
theorem gettersRunToFieldAndByte : Obligations.GettersRunToFieldAndByte := by
  rintro i reg b value (⟨rfl, rfl, rfl⟩ | ⟨rfl, rfl, rfl⟩ | ⟨rfl, rfl, rfl⟩) a0 a1 a2 avail s
  · rw [← osrResult_eq_append]
    exact readCommand_runsTo_byte (value := osrResult) (by decide) (fun _ => rfl) a0 a1 a2 avail b s
  · rw [← iirResult_eq_append]
    exact readCommand_runsTo_byte (value := iirResult) (by decide) (fun _ => rfl) a0 a1 a2 avail b s
  · rw [← odrResult_eq_append]
    exact readCommand_runsTo_byte (value := odrResult) (by decide) (fun _ => rfl) a0 a1 a2 avail b s

end Sys2Proof
end

section
/-! The refusals at a command's first step (spec/60_exceptions.md R297 to R299): a word that spells no command,
a command before calibration and a pressure before a temperature. Each is one raise that writes nothing. -/

namespace Sys2Proof

/-! ### Words that spell no command -/

/-- No row of the map has OPC 0, and no match has a 1 below OPC. -/
theorem opcodeMap_opc_ne_zero_and_value_reserved :
    ∀ r ∈ opcodeMap, r.opc ≠ 0 ∧ r.value &&& 0x0FFFFFFF#32 = 0 := by decide

/-- A decoded word has an assigned OPC (spec/30_encoding.md R115). -/
theorem opcodeField_ne_zero_of_decode {w : Word} {i : Instr} (h : decode w = .ok i) : opcodeField w ≠ 0 := by
  obtain ⟨r, hr, hspells, -⟩ := exists_row_of_decode h
  rw [← opc_eq_of_spells hr hspells]
  exact (opcodeMap_opc_ne_zero_and_value_reserved r hr).1

/-- A decoded word has 0 in every bit that the format of its OPC marks `0` (spec/30_encoding.md R114). -/
theorem reserved_eq_zero_of_decode {w : Word} {i : Instr} {r : OpcodeRow} (h : decode w = .ok i)
    (hr : r ∈ opcodeMap) (hopc : r.opc = opcodeField w) : w &&& r.mask &&& 0x0FFFFFFF#32 = 0 := by
  obtain ⟨r', hr', hspells, -⟩ := exists_row_of_decode h
  obtain rfl : r = r' := eq_of_opc_eq hr hr' (hopc.trans (opc_eq_of_spells hr' hspells).symm)
  rw [OpcodeRow.spells_iff.mp hspells]
  exact (opcodeMap_opc_ne_zero_and_value_reserved r hr).2

end Sys2Proof

namespace Sys2Proof.Machine

/-! ### The raise that writes nothing -/

/-- A finish that writes nothing ends the command and leaves all else. -/
theorem finish_nothing (c : ErrCode) (s : State) :
    finish c {} s = .next (s.ended c [] (afterTurn s.inputs)) :=
  finish_eq_ended c {} s

/-- The turn of a busy block whose word spells no command. -/
theorem bceStep_illegal {s : State} (hbusy : s.status.busy = true) (hillegal : ∀ i, decode s.cmdlat ≠ .ok i) :
    bceStep s = .next (s.ended .illegalCommand [] (afterTurn s.inputs)) := by
  cases hdec : decode s.cmdlat with
  | ok i => exact absurd hdec (hillegal i)
  | error e =>
    simp only [bceStep, State.command, hbusy, hdec, if_true]
    exact finish_nothing .illegalCommand s

end Sys2Proof.Machine

namespace Sys2Proof
open Machine

/-- Settles O6: neither kind of word decodes, so the block's turn is `bceStep_illegal`, answered or not. -/
theorem illegalCommandChangesOnlyStatus : Obligations.IllegalCommandChangesOnlyStatus := by
  refine ⟨rfl, fun s hbusy hword => ?_⟩
  have hillegal : ∀ i, decode s.cmdlat ≠ .ok i := by
    intro i hdec
    obtain hopc | ⟨r, hr, hopc, hbit⟩ := hword
    · exact opcodeField_ne_zero_of_decode hdec hopc
    · exact hbit (reserved_eq_zero_of_decode hdec hr hopc)
  refine ⟨fun d rest hin => ?_, fun hin => ?_⟩
  · rw [step_bceTurn (.inl ⟨d, rest, hin⟩), bceStep_illegal hbusy hillegal, hin, afterTurn]
  · rw [step_bceTurn (.inr hin), bceStep_illegal hbusy hillegal, hin, afterTurn]

/-- Settles O27: CAL_VALID is the first check of each of the four commands. -/
theorem uncalibratedCommandsAreRefused : Obligations.UncalibratedCommandsAreRefused := by
  refine ⟨rfl, fun i s hcommand hseq hcal => ?_⟩
  rw [← finish_nothing]
  obtain ⟨raw, rfl⟩ | ⟨raw, rfl⟩ | rfl | rfl := hcommand
  · exact (exec_compt_start raw hseq).trans (whenCalibrated_false hcal)
  · exact (exec_compp_start raw hseq).trans (whenTemperature_uncalibrated hcal)
  · exact (exec_meast_start hseq).trans (whenCalibrated_false hcal)
  · exact (exec_measp_start hseq).trans (whenTemperature_uncalibrated hcal)

/-- Settles O28: past CAL_VALID, T_VALID is the next check of both commands. -/
theorem pressureWithoutTemperatureIsRefused : Obligations.PressureWithoutTemperatureIsRefused := by
  refine ⟨rfl, fun i s hcommand hseq hcal htemp => ?_⟩
  rw [← finish_nothing]
  obtain ⟨raw, rfl⟩ | rfl := hcommand
  · exact (exec_compp_start raw hseq).trans (whenTemperature_false hcal htemp)
  · exact (exec_measp_start hseq).trans (whenTemperature_false hcal htemp)

end Sys2Proof
end

section
/-! The reset event (spec/70_reset_and_hazards.md R330, R331) and the idle block it leaves, which runs nothing
by itself (R344). -/

namespace Sys2Proof.Machine

/-! ### The reset event -/

theorem step_reset {s : State} {rest : List Input} (h : s.inputs = .reset :: rest) :
    step s = .next { s with inputs := rest }.assertReset := by
  rw [← popInput_eq h]
  simp only [step, h]

theorem Status.reset_word : Status.reset.word = 0x00000000 := by decide

theorem State.reset_cal (k : Fin 14) : State.reset.cal[k] = 0 := by simp [State.reset]

theorem State.assertReset_cal_getElem (s : State) (k : Fin 14) : s.assertReset.cal[k] = 0 := State.reset_cal k

/-! ### An idle block's turns -/

theorem bceStep_idle {s : State} (h : s.status.busy = false) : bceStep s = .next s.takeTurn := by
  simp [bceStep, h]

/-- While idle the block uses up every turn it is given, answered or not, and changes nothing else. -/
theorem runSteps_turns_idle {s : State} (h : s.status.busy = false) (ds : List Byte) :
    runSteps ds.length { s with inputs := turns ds [] } = .next { s with inputs := [] } := by
  induction ds with
  | nil => rfl
  | cons d ds ih =>
    have hstep : step { s with inputs := turns (d :: ds) [] } = .next { s with inputs := turns ds [] } :=
      (step_bceTurn (.inl ⟨d, turns ds [], rfl⟩)).trans (bceStep_idle h)
    exact (runSteps_succ hstep).trans ih

/-- While idle the block stays as it is, however often it is stepped. -/
theorem runSteps_idle {s : State} (h : s.status.busy = false) (hin : s.inputs = []) (n : Nat) :
    runSteps n s = .next s := by
  induction n with
  | zero => rfl
  | succ n ih =>
    have hkeep : s.takeTurn = s := by rw [State.takeTurn, hin, afterTurn_nil, ← hin]
    have hstep : step s = .next s := by rw [step_bceTurn (.inr hin), bceStep_idle h, hkeep]
    rw [runSteps_succ hstep, ih]

/-! ### The calibration views of a cell that holds 0 -/

theorem cellInt_zero (ty : CellType) : cellInt ty 0 = 0 := by cases ty <;> rfl

theorem calView_of_cell_zero {cal : Vector CellWord 14} {k : Fin 14} (h : cal[k] = 0) : calView cal k = 0 := by
  rw [calView_eq_ofInt, h, cellInt_zero]
  rfl

/-- A cell that holds 0 leaves its coefficient's offset: -2^14 for p1 and p2, else none (spec/41_calibration.md
R185). -/
theorem coefView_of_cell_zero {cal : Vector CellWord 14} {k : Fin 14} (h : cal[k] = 0) :
    coefView cal k = if k = 3 ∨ k = 4 then 0xFFFFC000 else 0 := by
  rw [coefView]
  split
  next hk =>
    rw [mantissa_of_offset cal hk, h]
    rfl
  next hk =>
    rw [mantissa_of_no_offset cal hk, h, cellInt_zero]
    rfl

end Sys2Proof.Machine

namespace Sys2Proof
open Machine

/-- Settles O15: the next state is `assertReset` of the popped state, which is idle, so `runSteps_turns_idle`
uses up the turns that follow. -/
theorem resetAbandonsTheCommand : Obligations.ResetAbandonsTheCommand := by
  intro s rest hin
  refine ⟨_, step_reset hin, rfl, rfl, Status.reset_word, rfl, rfl, State.assertReset_cal_getElem _,
    rfl, rfl, rfl, ?_⟩
  rintro ds rfl
  exact runSteps_turns_idle (s := { s with inputs := turns ds [] }.assertReset) rfl ds

/-- Settles O16: the views follow from 0 in every cell, and the reset state is idle with nothing to come. -/
theorem resetStateReadsAsStated : Obligations.ResetStateReadsAsStated :=
  ⟨rfl, rfl, Status.reset_word, rfl, rfl, State.reset_cal, fun k => calView_of_cell_zero (State.reset_cal k),
    fun k => coefView_of_cell_zero (State.reset_cal k), runSteps_idle rfl rfl,
    runSteps_turns_idle (s := State.reset) rfl⟩

end Sys2Proof
end

section
/-! The stall (spec/70_reset_and_hazards.md R341): at each bus primitive a command without the transport's
answer stays as it is, and a host access meanwhile changes at most OVR and the log of host reads. -/

namespace Sys2Proof.Machine

/-! ### A primitive without an answer, from the register accesses up to the commands -/

theorem atPrimitive_start {i : Instr} {s : State} (h : s.seq = .start) :
    atPrimitive i s = startsWithPrimitive i s.status := by
  rw [atPrimitive, h]

/-- COMPT and COMPP are at no primitive anywhere. -/
theorem not_atPrimitive_of_compProgram {i : Instr} {s : State} (hon : compProgram s.seq = true)
    (hfirst : startsWithPrimitive i s.status = false) : ¬ atPrimitive i s = true := by
  cases hseq : s.seq with
  | start => rw [atPrimitive_start hseq, hfirst]; exact Bool.false_ne_true
  | _ => simp [compProgram, hseq] at hon

section Unanswered
variable {s : State} (hwait : firstAnswer s.inputs = none)
include hwait

theorem memRead_stalled (at' : ReadPos → Locals → Seq) (reg : Byte) (n : Nat)
    (ok short : Locals → State → State) (p : ReadPos) (l : Locals) :
    memRead at' reg n ok short p l s = .next s := by
  obtain ⟨t, hread⟩ := memRead_next at' reg n ok short p l s
  obtain ⟨-, rfl⟩ | ⟨d, hanswer, -⟩ := memRead_cases hread
  · exact hread
  · simp [hwait] at hanswer

theorem memWrite_stalled (reg v : Byte) (next : Locals → Seq) (p : WritePos) (l : Locals) :
    memWrite reg v next p l s = .next s := by
  obtain ⟨t, hwrite⟩ := memWrite_next reg v next p l s
  obtain ⟨-, rfl⟩ | ⟨d, hanswer, -⟩ := memWrite_cases hwrite
  · exact hwrite
  · simp [hwait] at hanswer

section Commands
variable {i : Instr} (hat : atPrimitive i s = true)
include hat

theorem fieldCommand_stalled (reg : Byte) (sh : BitVec 3) (val : Byte) (err : ErrCode)
    (hon : fieldProgram s.seq = true) : fieldCommand reg sh val err s = .next s := by
  cases hseq : s.seq with
  | start =>
    simp only [fieldCommand, hseq]
    exact memRead_stalled hwait ..
  | read p l =>
    simp only [fieldCommand, hseq]
    exact memRead_stalled hwait ..
  | write p l =>
    simp only [fieldCommand, hseq]
    exact memWrite_stalled hwait ..
  | _ => simp [fieldProgram, atPrimitive, hseq] at hon hat

theorem readCommand_stalled (reg : Byte) (n : Nat) (value : Locals → BitVec 64) (err : ErrCode)
    {m : Nat} (hon : readProgram m s.seq = true) : readCommand reg n value err s = .next s := by
  cases hseq : s.seq with
  | start =>
    simp only [readCommand, hseq]
    exact memRead_stalled hwait ..
  | read p l =>
    simp only [readCommand, hseq]
    exact memRead_stalled hwait ..
  | _ => simp [readProgram, atPrimitive, hseq] at hon hat

theorem execWrite_stalled (reg val : Byte) (hon : writeProgram s.seq = true) :
    execWrite reg val s = .next s := by
  cases hseq : s.seq with
  | start =>
    simp only [execWrite, hseq]
    exact memWrite_stalled hwait ..
  | write p l =>
    simp only [execWrite, hseq]
    exact memWrite_stalled hwait ..
  | _ => simp [writeProgram, atPrimitive, hseq] at hon hat

theorem execSetbit_stalled (reg : Byte) (bit : BitVec 3) (on : BitVec 1)
    (hon : setbitProgram s.seq = true) : execSetbit reg bit on s = .next s := by
  cases hseq : s.seq with
  | start =>
    simp only [execSetbit, hseq]
    exact memRead_stalled hwait ..
  | read p l =>
    simp only [execSetbit, hseq]
    exact memRead_stalled hwait ..
  | write p l =>
    simp only [execSetbit, hseq]
    exact memWrite_stalled hwait ..
  | _ => simp [setbitProgram, atPrimitive, hseq] at hon hat

/-- Only after a cell that is not the last does the step begin with a primitive. -/
theorem execLoadcal_stalled (hon : loadcalProgram s.seq = true) : execLoadcal s = .next s := by
  cases hseq : s.seq with
  | start =>
    simp only [execLoadcal, hseq]
    exact issue_stalled hwait
  | cell k p l =>
    simp only [execLoadcal, hseq]
    exact memRead_stalled hwait ..
  | afterCell k r =>
    have hk : k.val + 1 < 14 := by simpa [atPrimitive, hseq] using hat
    simp only [execLoadcal, hseq, nextCell, hk, dite_true]
    exact issue_stalled hwait
  | _ => simp [loadcalProgram, hseq] at hon

end Commands

/-- A first step that is a primitive has passed the check of CAL_VALID (spec/60_exceptions.md R297). -/
theorem execMeast_stalled (hat : atPrimitive .meast s = true) (hon : measProgram s.seq = true) :
    execMeast s = .next s := by
  cases hseq : s.seq with
  | start =>
    have hcal : s.status.calValid = true := (atPrimitive_start hseq).symm.trans hat
    simp only [execMeast, hseq, whenCalibrated_true hcal]
    exact memRead_stalled hwait ..
  | read p l =>
    simp only [execMeast, hseq]
    exact memRead_stalled hwait ..
  | flagRead p l =>
    simp only [execMeast, hseq]
    exact memRead_stalled hwait ..
  | write p l =>
    simp only [execMeast, hseq]
    exact memWrite_stalled hwait ..
  | _ => simp [measProgram, atPrimitive, hseq] at hon hat

/-- As for MEAST, with the check of T_VALID besides (spec/60_exceptions.md R298). -/
theorem execMeasp_stalled (hat : atPrimitive .measp s = true) (hon : measProgram s.seq = true) :
    execMeasp s = .next s := by
  cases hseq : s.seq with
  | start =>
    have hchecks : (s.status.calValid && s.status.tValid) = true := (atPrimitive_start hseq).symm.trans hat
    obtain ⟨hcal, htemp⟩ := Bool.and_eq_true_iff.mp hchecks
    simp only [execMeasp, hseq, whenTemperature_true hcal htemp]
    exact memRead_stalled hwait ..
  | read p l =>
    simp only [execMeasp, hseq]
    exact memRead_stalled hwait ..
  | flagRead p l =>
    simp only [execMeasp, hseq]
    exact memRead_stalled hwait ..
  | write p l =>
    simp only [execMeasp, hseq]
    exact memWrite_stalled hwait ..
  | _ => simp [measProgram, atPrimitive, hseq] at hon hat

/-- Every command at every one of its bus primitives. -/
theorem exec_stalled {i : Instr} (hat : atPrimitive i s = true) (hon : onProgram i s.seq = true) :
    exec i s = .next s := by
  cases i with
  | read w reg => exact readCommand_stalled hwait hat _ _ _ _ hon
  | write reg val => exact execWrite_stalled hwait hat reg val hon
  | setbit reg bit on => exact execSetbit_stalled hwait hat reg bit on hon
  | wfield reg sh val => exact fieldCommand_stalled hwait hat _ _ _ _ hon
  | loadcal => exact execLoadcal_stalled hwait hat hon
  | compt raw => exact absurd hat (not_atPrimitive_of_compProgram hon rfl)
  | compp raw => exact absurd hat (not_atPrimitive_of_compProgram hon rfl)
  | meast => exact execMeast_stalled hwait hat hon
  | measp => exact execMeasp_stalled hwait hat hon
  | setosr osrt osrp => exact fieldCommand_stalled hwait hat _ _ _ _ hon
  | getosr => exact readCommand_stalled hwait hat _ _ _ _ hon
  | setiir iir => exact fieldCommand_stalled hwait hat _ _ _ _ hon
  | getiir => exact readCommand_stalled hwait hat _ _ _ _ hon
  | setodr odr => exact fieldCommand_stalled hwait hat _ _ _ _ hon
  | getodr => exact readCommand_stalled hwait hat _ _ _ _ hon

end Unanswered

/-! ### Host accesses meanwhile -/

/-- The same block with OVR holding `ovr`, and other surroundings: what the host has read and what comes
next. -/
def State.waiting (s : State) (ovr : Bool) (log : List (BitVec 8 × BitVec 32)) (ins : List Input) : State :=
  { s with status := { s.status with ovr := ovr }, hostLog := log, inputs := ins }

theorem State.waiting_self (s : State) : s.waiting s.status.ovr s.hostLog s.inputs = s := rfl

/-- While BUSY = 1 a host access reaches no more of the block than OVR (spec/10_state.md R42, R50 to R52). -/
theorem hostAct_busy {s : State} (h : s.status.busy = true) (a : HostAct) :
    ∃ ovr log, s.hostAct a = s.waiting ovr log s.inputs := by
  cases a with
  | read off => exact ⟨_, _, rfl⟩
  | write off w =>
    rw [State.hostAct]
    obtain ⟨-, hsubmit⟩ | ⟨-, hstatus⟩ | ⟨-, -, hkeep⟩ := hostWrite_cases s off w
    · rw [hsubmit, submit_busy w h]
      exact ⟨_, _, rfl⟩
    · rw [hstatus, writeStatus_eq]
      exact ⟨_, _, rfl⟩
    · rw [hkeep]
      exact ⟨_, _, s.waiting_self.symm⟩

/-! ### The stalled command -/

/-- Command `i` of `s` is at one of its bus primitives. -/
structure AtPrimitive (i : Instr) (s : State) : Prop where
  running : Running i s
  onProgram : onProgram i s.seq = true
  primitive : atPrimitive i s = true

/-- Neither OVR nor the surroundings decide whether a command is at a primitive. -/
theorem AtPrimitive.waiting {i : Instr} {s : State} (h : AtPrimitive i s) (ovr : Bool)
    (log : List (BitVec 8 × BitVec 32)) (ins : List Input) : AtPrimitive i (s.waiting ovr log ins) :=
  ⟨⟨h.running.busy, h.running.command⟩, h.onProgram, h.primitive⟩

/-- Without an input the block's own turn comes, and the primitive waits. -/
theorem AtPrimitive.step_unanswered {i : Instr} {s : State} (h : AtPrimitive i s) (hin : s.inputs = []) :
    step s = .next s := by
  have hwait : firstAnswer s.inputs = none := by rw [hin, firstAnswer_nil]
  have hexec := exec_stalled hwait h.primitive h.onProgram
  rw [step_bceTurn (.inr hin)]
  simpa only [bceStep, h.running.busy, h.running.command, if_true] using hexec

/-- However many steps are taken, where the host accesses `acts` alone are to come. -/
theorem AtPrimitive.runSteps_host {i : Instr} {s : State} (h : AtPrimitive i s) (n : Nat)
    {acts : List HostAct} (hin : s.inputs = acts.map .host) :
    ∃ ovr log ins, runSteps n s = .next (s.waiting ovr log ins) := by
  induction n generalizing s acts with
  | zero => exact ⟨_, _, _, congrArg _ s.waiting_self.symm⟩
  | succ n ih =>
    cases acts with
    | nil =>
      rw [runSteps_succ (h.step_unanswered hin)]
      exact ih h hin
    | cons a acts =>
      obtain ⟨ovr, log, hact⟩ := hostAct_busy (s := { s with inputs := acts.map .host }) h.running.busy a
      rw [runSteps_succ ((step_host hin).trans (congrArg _ hact))]
      exact ih (h.waiting ovr log _) rfl

end Sys2Proof.Machine

namespace Sys2Proof
open Machine

/-- Settles O18: `runSteps_host` gives the stalled state whole, and reset reaches it like any other. -/
theorem unansweredPrimitiveStallsForEver : Obligations.UnansweredPrimitiveStallsForEver := by
  intro s i hbusy hdec hon hat
  have hprimitive : AtPrimitive i s := ⟨⟨hbusy, hdec⟩, hon, hat⟩
  refine ⟨fun acts n hin => ?_, fun rest hin => ⟨_, step_reset hin, rfl, rfl⟩⟩
  obtain ⟨ovr, log, ins, hrun⟩ := hprimitive.runSteps_host n hin
  exact ⟨_, hrun, hbusy, rfl, rfl, rfl, rfl, rfl, rfl⟩

end Sys2Proof
end

section
/-! Decoding and encoding are inverse (spec/30_encoding.md R112, R113, R117): the words of the commands not
decoded above, and back, the word put together again from the fields that its row reads. -/

namespace Sys2Proof

/-! ### From a command to its word and back -/

theorem decode_encode_compt (raw : BitVec 24) : decode (encode (.compt raw)) = .ok (.compt raw) := by
  refine decode_encode_of_row (r := opcodeMap[5]) (List.getElem_mem _) ?_
    (congrArg Instr.compt BitVec.extractLsb'_append_eq_right)
  change (0x6#4 ++ 0#4 ++ raw) &&& (0xF#4 ++ 0xF#4 ++ 0#24) = _
  simp only [BitVec.and_append, BitVec.and_zero]
  rfl

theorem decode_encode_compp (raw : BitVec 24) : decode (encode (.compp raw)) = .ok (.compp raw) := by
  refine decode_encode_of_row (r := opcodeMap[6]) (List.getElem_mem _) ?_
    (congrArg Instr.compp BitVec.extractLsb'_append_eq_right)
  change (0x7#4 ++ 0#4 ++ raw) &&& (0xF#4 ++ 0xF#4 ++ 0#24) = _
  simp only [BitVec.and_append, BitVec.and_zero]
  rfl

/-- Settles O1: one lemma per format with operands; the words without operands are evaluated. -/
theorem decodeEncodeAgree : Obligations.DecodeEncodeAgree := by
  intro i
  cases i with
  | read w reg => exact decode_encode_read w reg
  | write reg val => exact decode_encode_write reg val
  | setbit reg bit on => exact decode_encode_setbit reg bit on
  | wfield reg sh val => exact decode_encode_wfield reg sh val
  | compt raw => exact decode_encode_compt raw
  | compp raw => exact decode_encode_compp raw
  | setosr osrt osrp => exact decode_encode_setosr osrt osrp
  | setiir iir => exact decode_encode_setiir iir
  | setodr odr => exact decode_encode_setodr odr
  | loadcal => decide
  | meast => decide
  | measp => decide
  | getosr => decide
  | getiir => decide
  | getodr => decide

/-! ### From a word to its command and back -/

/-- Where a row's mask is all ones, a word that the row spells holds the row's match. -/
theorem eq_extractLsb'_of_spells {r : OpcodeRow} {w : Word} (h : r.spells w = true) {start n : Nat}
    {f : BitVec n} (hmask : r.mask.extractLsb' start n = BitVec.allOnes n)
    (hvalue : r.value.extractLsb' start n = f) : f = w.extractLsb' start n := by
  rw [← hvalue, ← OpcodeRow.spells_iff.mp h, BitVec.extractLsb'_and, hmask, BitVec.and_allOnes]

/-- A mask of all ones leaves one word to spell. -/
theorem eq_value_of_spells {r : OpcodeRow} {w : Word} (h : r.spells w = true)
    (hmask : r.mask = BitVec.allOnes 32) : r.value = w := by
  rw [← OpcodeRow.spells_iff.mp h, hmask, BitVec.and_allOnes]

/-- Every row builds the command that its word encodes: the fixed bits of the format are the word's own by the
mask, and laid beside the operands' fields they are the whole word. -/
theorem encode_build_of_spells {r : OpcodeRow} {w : Word} (hr : r ∈ opcodeMap) (h : r.spells w = true) :
    encode (r.build w) = w := by
  simp only [opcodeMap, List.mem_cons, List.not_mem_nil, or_false] at hr
  obtain rfl | rfl | rfl | rfl | rfl | rfl | rfl | rfl | rfl | rfl | rfl | rfl | rfl | rfl | rfl := hr
  · have hopc : 0x1#4 = w.extractLsb' 28 4 := eq_extractLsb'_of_spells h (by decide) (by decide)
    have hhigh : 0#2 = w.extractLsb' 26 2 := eq_extractLsb'_of_spells h (by decide) (by decide)
    have hmid : 0#16 = w.extractLsb' 8 16 := eq_extractLsb'_of_spells h (by decide) (by decide)
    simp only [encode, hopc, hhigh, hmid, BitVec.extractLsb'_append_extractLsb'_eq_extractLsb']
    exact BitVec.extractLsb'_eq_self
  · have hopc : 0x2#4 = w.extractLsb' 28 4 := eq_extractLsb'_of_spells h (by decide) (by decide)
    have hhigh : 0#12 = w.extractLsb' 16 12 := eq_extractLsb'_of_spells h (by decide) (by decide)
    simp only [encode, hopc, hhigh, BitVec.extractLsb'_append_extractLsb'_eq_extractLsb']
    exact BitVec.extractLsb'_eq_self
  · have hhigh : 0x300#12 = w.extractLsb' 20 12 := eq_extractLsb'_of_spells h (by decide) (by decide)
    have hmid : 0#8 = w.extractLsb' 8 8 := eq_extractLsb'_of_spells h (by decide) (by decide)
    change 0x300#12 ++ w.extractLsb' 19 1 ++ w.extractLsb' 16 3 ++ 0#8 ++ w.extractLsb' 0 8 = w
    simp only [hhigh, hmid, BitVec.extractLsb'_append_extractLsb'_eq_extractLsb']
    exact BitVec.extractLsb'_eq_self
  · have hopc : 0x4#4 = w.extractLsb' 28 4 := eq_extractLsb'_of_spells h (by decide) (by decide)
    have hhigh : 0#9 = w.extractLsb' 19 9 := eq_extractLsb'_of_spells h (by decide) (by decide)
    simp only [encode, hopc, hhigh, BitVec.extractLsb'_append_extractLsb'_eq_extractLsb']
    exact BitVec.extractLsb'_eq_self
  · exact eq_value_of_spells h rfl
  · have hopc : 0x6#4 = w.extractLsb' 28 4 := eq_extractLsb'_of_spells h (by decide) (by decide)
    have hhigh : 0#4 = w.extractLsb' 24 4 := eq_extractLsb'_of_spells h (by decide) (by decide)
    simp only [encode, hopc, hhigh, BitVec.extractLsb'_append_extractLsb'_eq_extractLsb']
    exact BitVec.extractLsb'_eq_self
  · have hopc : 0x7#4 = w.extractLsb' 28 4 := eq_extractLsb'_of_spells h (by decide) (by decide)
    have hhigh : 0#4 = w.extractLsb' 24 4 := eq_extractLsb'_of_spells h (by decide) (by decide)
    simp only [encode, hopc, hhigh, BitVec.extractLsb'_append_extractLsb'_eq_extractLsb']
    exact BitVec.extractLsb'_eq_self
  · exact eq_value_of_spells h rfl
  · exact eq_value_of_spells h rfl
  · have hopc : 0xA#4 = w.extractLsb' 28 4 := eq_extractLsb'_of_spells h (by decide) (by decide)
    have hhigh : 0#22 = w.extractLsb' 6 22 := eq_extractLsb'_of_spells h (by decide) (by decide)
    simp only [encode, hopc, hhigh, BitVec.extractLsb'_append_extractLsb'_eq_extractLsb']
    exact BitVec.extractLsb'_eq_self
  · exact eq_value_of_spells h rfl
  · have hopc : 0xC#4 = w.extractLsb' 28 4 := eq_extractLsb'_of_spells h (by decide) (by decide)
    have hhigh : 0#25 = w.extractLsb' 3 25 := eq_extractLsb'_of_spells h (by decide) (by decide)
    simp only [encode, hopc, hhigh, BitVec.extractLsb'_append_extractLsb'_eq_extractLsb']
    exact BitVec.extractLsb'_eq_self
  · exact eq_value_of_spells h rfl
  · have hopc : 0xE#4 = w.extractLsb' 28 4 := eq_extractLsb'_of_spells h (by decide) (by decide)
    have hhigh : 0#23 = w.extractLsb' 5 23 := eq_extractLsb'_of_spells h (by decide) (by decide)
    simp only [encode, hopc, hhigh, BitVec.extractLsb'_append_extractLsb'_eq_extractLsb']
    exact BitVec.extractLsb'_eq_self
  · exact eq_value_of_spells h rfl

/-- Settles O2: a decoded word is spelled by the row that builds its command. -/
theorem encodeOfDecodedWord : Obligations.EncodeOfDecodedWord := by
  intro w i hdec
  obtain ⟨r, hr, hspells, rfl⟩ := exists_row_of_decode hdec
  exact encode_build_of_spells hr hspells

/-! ### One meaning for each word -/

/-- Settles O4: two rows that match one word both carry its OPC, so they are one row; and the decoder answers
with a command or with an error, never both. -/
theorem noTwoRowsMatchOneWord : Obligations.NoTwoRowsMatchOneWord := by
  refine ⟨fun w r hr r' hr' hmatch hmatch' => ?_, fun w => ?_⟩
  · have hopc := opc_eq_of_spells hr (OpcodeRow.spells_iff.mpr hmatch)
    have hopc' := opc_eq_of_spells hr' (OpcodeRow.spells_iff.mpr hmatch')
    rw [eq_of_opc_eq hr hr' (hopc.trans hopc'.symm)]
  · cases decode w with
    | ok i => simp
    | error e => simp

/-- Settles O5: each word is decoded by evaluation. -/
theorem sampleWordsDecode : Obligations.SampleWordsDecode := by
  unfold Obligations.SampleWordsDecode
  decide

end Sys2Proof
end

section
/-! What one step of each command can do, said once (spec/10_state.md R36, R55): it waits, completes one bus
primitive, or ends the command. The statements about the whole machine rest on `exec_does`. -/

namespace Sys2Proof.Machine

/-! ### How far a position is from the end of its command -/

/-- The primitives still to be issued in a MemRead of `n` bytes. -/
def ReadPos.left (n : Nat) : ReadPos → Nat
  | .start => n + 4
  | .reg => n + 3
  | .stop => n + 2
  | .request => n + 1
  | .byte i => n - i

/-- The primitives still to be issued in a MemWrite. -/
def WritePos.left : WritePos → Nat
  | .start => 4
  | .reg => 3
  | .val => 2
  | .stop => 1

/-- The BCE steps that LOADCAL takes after the read of cell `k` where all later reads are good. -/
def cellsLeft (k : Fin 14) : Nat :=
  (((List.finRange 14).drop (k.val + 1)).map fun j => (cellRow j).width + 4).sum + 1

/-- A bound on the BCE steps that a command takes from a position on: 5 from a write-back to the end, 5 for
the read of the flag before it, and 78 for a good LOADCAL. -/
def Seq.left : Seq → Nat
  | .idle => 0
  | .start => 78
  | .read p _ => p.left 4 + 10
  | .flagRead p _ => p.left 1 + 5
  | .cell k p _ => p.left (cellRow k).width + cellsLeft k
  | .afterCell k _ => cellsLeft k
  | .write p _ => p.left + 1
  | .finish _ => 1
  | .raise => 1

theorem cellsLeft_eq_succ :
    ∀ (k : Fin 14) (h : k.val + 1 < 14),
      cellsLeft k = (cellRow ⟨k.val + 1, h⟩).width + 4 + cellsLeft ⟨k.val + 1, h⟩ := by decide

theorem cellsLeft_bounds : ∀ k, 1 ≤ cellsLeft k ∧ (cellRow k).width + 4 + cellsLeft k ≤ 78 := by decide

theorem ReadPos.left_le (n : Nat) (p : ReadPos) : p.left n ≤ n + 4 := by
  cases p <;> simp only [left] <;> omega

theorem WritePos.left_le (p : WritePos) : p.left ≤ 4 := by
  cases p <;> simp [left]

theorem WritePos.left_pos (p : WritePos) : 0 < p.left := by
  cases p <;> decide

/-- No command takes more steps than a good LOADCAL (spec/70_reset_and_hazards.md R340). -/
theorem Seq.left_le (q : Seq) : q.left ≤ 78 := by
  cases q with
  | read p l => have := p.left_le 4; simp only [left]; omega
  | flagRead p l => have := p.left_le 1; simp only [left]; omega
  | cell k p l =>
    have := p.left_le (cellRow k).width
    obtain ⟨-, hbound⟩ := cellsLeft_bounds k
    simp only [left]
    omega
  | afterCell k r =>
    obtain ⟨-, hbound⟩ := cellsLeft_bounds k
    simp only [left]
    omega
  | write p l => have := p.left_le; simp only [left]; omega
  | _ => simp [left]

theorem Seq.left_pos {q : Seq} (h : q ≠ .idle) : 0 < q.left := by
  cases q with
  | idle => exact absurd rfl h
  | cell k p l =>
    obtain ⟨hpos, -⟩ := cellsLeft_bounds k
    simp only [left]
    omega
  | afterCell k r => exact (cellsLeft_bounds k).1
  | _ => simp [left]

/-! ### STAGE and STAGE_OK within LOADCAL -/

/-- The cell of LOADCAL that a position belongs to. -/
def Seq.cell? : Seq → Option (Fin 14)
  | .cell k _ _ => some k
  | .afterCell k _ => some k
  | .idle => none
  | .start => none
  | .read _ _ => none
  | .flagRead _ _ => none
  | .write _ _ => none
  | .finish _ => none
  | .raise => none

/-- STAGE_OK counts at most the first `m` cells, and where it counts them all each is of its type. -/
def StagedFirst (m : Nat) (s : State) : Prop :=
  s.stageOk.toNat ≤ m ∧
    (s.stageOk.toNat = m → ∀ j : Fin 14, j.val < m → cellInRange (cellRow j).type s.stage[j] = true)

theorem stagingOk_iff {s : State} : stagingOk s ↔ ∀ k, s.seq.cell? = some k → StagedFirst k.val s := by
  unfold stagingOk
  cases s.seq <;> simp [Seq.cell?, StagedFirst, stagedBefore]

theorem stagedFirst_clearStageOk (s : State) : StagedFirst 0 s.clearStageOk :=
  ⟨le_rfl, fun _ _ hj => absurd hj (Nat.not_lt_zero _)⟩

/-- Staging the outcome of the next cell: a failed read leaves the count behind. -/
theorem StagedFirst.stageResult {k : Fin 14} {s : State} (h : StagedFirst k.val s) (r : Option (BitVec 32)) :
    StagedFirst (k.val + 1) (s.stageResult k r) := by
  obtain ⟨hle, hcells⟩ := h
  cases r with
  | none =>
    rw [State.stageResult_none]
    exact ⟨by omega, fun hcount => absurd hle (by omega)⟩
  | some v =>
    have hcount : (s.stageOk + 1).toNat = s.stageOk.toNat + 1 := by
      have hk := k.isLt
      simp only [BitVec.toNat_add]
      change (s.stageOk.toNat + 1) % 16 = _
      omega
    refine ⟨by rw [State.stageResult_some, State.stageCell_stageOk, hcount]; omega, fun hall j hj => ?_⟩
    rw [State.stageResult_some, State.stageCell_stageOk, hcount] at hall
    rw [State.stageResult_some, State.stageCell_stage]
    by_cases hjk : j = k
    · subst hjk
      simpa using cellInRange_decodeCell (cellRow j).type v
    · have hne : k.val ≠ j.val := fun heq => hjk (Fin.ext heq.symm)
      have hold := hcells (by omega) j (by omega)
      simpa [hne] using hold

/-! ### The three things a step of a command can do -/

/-- Command `i` can end with this error code and these writes; `s` is the state before the step and `u` the
one with the last outcome of LOADCAL staged. -/
inductive EndsWith (i : Instr) (s u : State) : ErrCode → Writes → Prop
  /-- An error other than LOADCAL's, or a command that returns nothing. -/
  | nothing {c : ErrCode} (hc : c ≠ .noAck) : EndsWith i s u c {}
  /-- RESULT alone (spec/10_state.md R46). -/
  | value {v : BitVec 64}
      (hi : (∃ w reg, i = .read w reg) ∨ i = .getosr ∨ i = .getiir ∨ i = .getodr ∨ (∃ raw, i = .compp raw) ∨
        i = .measp) :
      EndsWith i s u .none { result := some v }
  /-- COMPT checks CAL_VALID in this step, MEAST in its first one (spec/42_compensation.md R220, R222). -/
  | temperature {raw : Raw} (hi : (∃ raw, i = .compt raw) ∨ i = .meast)
      (hcal : s.status.calValid = true ∨ (i = .meast ∧ s.seq ≠ .start)) :
      EndsWith i s u .none
        { temp := some (tempWord s.cal raw), tValid := some true,
          result := some ((tempWord s.cal raw).signExtend 64) }
  /-- LOADCAL with 14 good reads (spec/41_calibration.md R183). -/
  | loaded (hi : i = .loadcal) (hstaged : stagingOk s → StagedFirst 14 u) (hall : u.stageOk = 14) :
      EndsWith i s u .none
        { calOk := some u.stageOk, tValid := some false, cal := some u.stage, calValid := some true }
  /-- LOADCAL with a failed read (spec/60_exceptions.md R294). -/
  | incomplete (hi : i = .loadcal) (hstaged : stagingOk s → StagedFirst 14 u) :
      EndsWith i s u .calIncomplete { calOk := some u.stageOk, tValid := some false, calValid := some false }

/-- What a step of command `i` in `s` does to STAGE and STAGE_OK before anything else (spec/10_state.md
R55). -/
inductive Stages (i : Instr) (s : State) : State → Prop
  | keeps : Stages i s s
  | clears (hi : i = .loadcal) (hseq : s.seq = .start) : Stages i s s.clearStageOk
  | stages {k : Fin 14} {r : Option (BitVec 32)} (hi : i = .loadcal) (hseq : s.seq = .afterCell k r) :
      Stages i s (s.stageResult k r)

/-- What holds of every completed bus primitive of command `i` that leads from `s` to `t`. -/
structure Advances (i : Instr) (s t : State) : Prop where
  keeps_program : onProgram i s.seq = true → onProgram i t.seq = true
  left_lt : onProgram i s.seq = true → t.seq.left < s.seq.left
  not_start : t.seq ≠ .start
  keeps_staging : stagingOk s → stagingOk t

/-- All that one step of command `i` can do: wait for the transport, complete one bus primitive, or end the
command. -/
inductive ExecStep (i : Instr) (s : State) : State → Prop
  | waits (hwait : firstAnswer s.inputs = none) : ExecStep i s s
  | issues {u : State} {d : Byte} {e : BusEvent} {q : Seq} (hu : Stages i s u)
      (hanswer : firstAnswer s.inputs = some d) (hadv : Advances i s ((u.takeTurn.emit e).goto q)) :
      ExecStep i s ((u.takeTurn.emit e).goto q)
  | ends {u : State} {c : ErrCode} {w : Writes} (hu : Stages i s u) (hend : EndsWith i s u c w) :
      ExecStep i s ((u.takeTurn.commit w).complete c)

/-- The outcome `o` of command `i` in `s` is such a step, or `s` is off the command's program. -/
def Does (i : Instr) (s : State) (o : Outcome) : Prop :=
  (∃ t, o = .next t ∧ ExecStep i s t) ∨ (o = .fault .offProgram ∧ onProgram i s.seq = false)

/-- Staging touches STAGE and STAGE_OK alone. -/
theorem Stages.frame {i : Instr} {s u : State} (h : Stages i s u) :
    u = { s with stage := u.stage, stageOk := u.stageOk } := by
  cases h with
  | keeps => rfl
  | clears => rfl
  | @stages k r => cases r <;> rfl

theorem Stages.exists_frame {i : Instr} {s u : State} (h : Stages i s u) :
    ∃ stage stageOk, u = { s with stage := stage, stageOk := stageOk } :=
  ⟨_, _, h.frame⟩

theorem finish_does {i : Instr} {s u : State} {c : ErrCode} {w : Writes} (hu : Stages i s u)
    (h : EndsWith i s u c w) : Does i s (finish c w u) :=
  .inl ⟨_, rfl, .ends hu h⟩

/-- Ending with an error or with nothing to return. -/
theorem finish_nothing_does {i : Instr} {s : State} {c : ErrCode} (hc : c ≠ .noAck) :
    Does i s (finish c {} s) :=
  finish_does .keeps (.nothing hc)

theorem issue_does {i : Instr} {s u : State} {e : Byte → BusEvent} {k : Byte → State → State}
    (hu : Stages i s u) (h : ∀ d, ∃ q, k d (s.takeTurn.emit (e d)) = (u.takeTurn.emit (e d)).goto q ∧
      Advances i s ((u.takeTurn.emit (e d)).goto q)) : Does i s (issue e k s) := by
  cases hd : firstAnswer s.inputs with
  | none => exact .inl ⟨s, issue_stalled hd, .waits hd⟩
  | some d =>
    obtain ⟨q, hk, hadv⟩ := h d
    exact .inl ⟨_, by rw [issue_answered hd, hk], .issues hu hd hadv⟩

/-! ### A primitive that leaves STAGE and STAGE_OK -/

/-- A primitive of command `i` leads from position `q` to `q'`, both of the same cell if of any. -/
structure MovesOn (i : Instr) (q q' : Seq) : Prop where
  keeps_program : onProgram i q = true → onProgram i q' = true
  left_lt : onProgram i q = true → q'.left < q.left
  not_start : q' ≠ .start
  same_cell : q'.cell? = q.cell?

theorem MovesOn.advances {i : Instr} {s : State} {q : Seq} (h : MovesOn i s.seq q) (e : BusEvent) :
    Advances i s ((s.takeTurn.emit e).goto q) where
  keeps_program := h.keeps_program
  left_lt := h.left_lt
  not_start := h.not_start
  keeps_staging hs := by
    rw [stagingOk_iff, State.goto_seq, h.same_cell]
    exact stagingOk_iff.mp hs

theorem issue_goto_does {i : Instr} {s : State} {e : Byte → BusEvent} {q : Byte → Seq}
    (h : ∀ d, MovesOn i s.seq (q d)) : Does i s (issue e (fun d t => t.goto (q d)) s) :=
  issue_does .keeps fun d => ⟨q d, rfl, (h d).advances _⟩

/-! ### Register accesses -/

/-- `at'` are the positions of a MemRead of `n` bytes in command `i`, which goes on at `onOk` or `onShort`. -/
structure ReadsWithin (i : Instr) (at' : ReadPos → Locals → Seq) (n : Nat) (onOk onShort : Locals → Seq) :
    Prop where
  pos : 0 < n
  inside : ∀ {p p'}, readPosOk n p' = true → p'.left n < p.left n → ∀ l l', MovesOn i (at' p l) (at' p' l')
  ok : ∀ p l l', MovesOn i (at' p l) (onOk l')
  short : ∀ p l l', MovesOn i (at' p l) (onShort l')

theorem MovesOn.ite {i : Instr} {q q' q'' : Seq} {c : Prop} [Decidable c] (h : MovesOn i q q')
    (h' : MovesOn i q q'') : MovesOn i q (if c then q' else q'') := by
  by_cases hc : c <;> simpa only [hc, if_true, if_false]

section Accesses
variable {i : Instr} {s : State} {l : Locals}

theorem memRead_does {at' : ReadPos → Locals → Seq} {n : Nat} {onOk onShort : Locals → Seq}
    (h : ReadsWithin i at' n onOk onShort) {p : ReadPos} (hseq : s.seq = at' p l) (reg : Byte) :
    Does i s (memRead at' reg n (fun l' t => t.goto (onOk l')) (fun l' t => t.goto (onShort l')) p l s) := by
  cases p with
  | start => exact issue_goto_does fun _ => hseq ▸ h.inside rfl (Nat.lt_succ_self _) l l
  | reg => exact issue_goto_does fun _ => hseq ▸ h.inside rfl (Nat.lt_succ_self _) l l
  | stop => exact issue_goto_does fun _ => hseq ▸ h.inside rfl (Nat.lt_succ_self _) l l
  | request =>
    rw [memRead_request]
    simp only [← apply_ite (State.goto _)]
    refine issue_goto_does fun d => hseq ▸ (h.short _ l l).ite (h.inside ?_ ?_ l _)
    · exact decide_eq_true h.pos
    · exact Nat.lt_succ_self _
  | byte k =>
    rw [memRead_byte]
    simp only [← apply_ite (State.goto _)]
    refine issue_goto_does fun d => ?_
    rw [hseq]
    split
    next hk =>
      have hlt : (ReadPos.byte (k + 1)).left n < (ReadPos.byte k).left n := by simp only [ReadPos.left]; omega
      have hin : readPosOk n (.byte (k + 1)) = true := decide_eq_true hk
      exact h.inside hin hlt _ _
    next => exact h.ok _ _ _

/-- A command whose first step is the first primitive of a read. -/
theorem memRead_first_does {at' : ReadPos → Locals → Seq} {n : Nat} {onOk onShort : Locals → Seq}
    (h : MovesOn i .start (at' .reg l)) (hseq : s.seq = .start) (reg : Byte) :
    Does i s
      (memRead at' reg n (fun l' t => t.goto (onOk l')) (fun l' t => t.goto (onShort l')) .start l s) :=
  issue_goto_does fun _ => hseq ▸ h

theorem memWrite_does (hwrite : ∀ p l, onProgram i (.write p l) = true)
    (hfinish : ∀ l, onProgram i (.finish l) = true) {p : WritePos} (hseq : s.seq = .write p l)
    (reg v : Byte) : Does i s (memWrite reg v .finish p l s) := by
  have hinside : ∀ p', p'.left < p.left → MovesOn i (.write p l) (.write p' l) := fun p' hlt =>
    ⟨fun _ => hwrite p' l, fun _ => Nat.succ_lt_succ hlt, nofun, rfl⟩
  have hend : MovesOn i (.write p l) (.finish l) :=
    ⟨fun _ => hfinish l, fun _ => Nat.succ_lt_succ p.left_pos, nofun, rfl⟩
  cases p with
  | start => exact issue_goto_does fun _ => hseq ▸ hinside .reg (by decide)
  | reg => exact issue_goto_does fun _ => hseq ▸ hinside .val (by decide)
  | val => exact issue_goto_does fun _ => hseq ▸ hinside .stop (by decide)
  | stop => exact issue_goto_does fun _ => hseq ▸ hend

/-! ### The positions of the reads -/

/-- Counting more bytes than the read has adds the same number at each of its positions. -/
theorem ReadPos.left_eq_add {n m : Nat} {p : ReadPos} (hp : readPosOk n p = true) (hnm : n ≤ m) :
    p.left m = p.left n + (m - n) := by
  cases p with
  | byte i =>
    have hi : i < n := of_decide_eq_true hp
    simp only [left]
    omega
  | _ => simp only [left]; omega

theorem ReadPos.left_pos {n m : Nat} {p : ReadPos} (hp : readPosOk n p = true) (hnm : n ≤ m) :
    0 < p.left m := by
  cases p with
  | byte i => exact Nat.sub_pos_of_lt ((of_decide_eq_true hp).trans_le hnm)
  | _ => exact Nat.succ_pos _

theorem ReadPos.left_lt_left {n m : Nat} {p p' : ReadPos} (hp : readPosOk n p = true)
    (hp' : readPosOk n p' = true) (hnm : n ≤ m) (h : p'.left n < p.left n) : p'.left m < p.left m := by
  rw [left_eq_add hp hnm, left_eq_add hp' hnm]
  exact Nat.add_lt_add_right h _

/-- A position that the reads of command `i` outside LOADCAL can go on to, at most `c` steps from the end. -/
structure Continues (i : Instr) (c : Nat) (q : Seq) : Prop where
  program : onProgram i q = true
  left_le : q.left ≤ c
  not_start : q ≠ .start
  no_cell : q.cell? = none

theorem continues_finish {c : Nat} (l : Locals) (h : onProgram i (.finish l) = true) (hc : 1 ≤ c) :
    Continues i c (.finish l) :=
  ⟨h, hc, nofun, rfl⟩

theorem continues_raise {c : Nat} (h : onProgram i .raise = true) (hc : 1 ≤ c) : Continues i c .raise :=
  ⟨h, hc, nofun, rfl⟩

theorem continues_write {c : Nat} (l : Locals) (h : onProgram i (.write .start l) = true) (hc : 5 ≤ c) :
    Continues i c (.write .start l) :=
  ⟨h, hc, nofun, rfl⟩

/-- From a read inside `at'`, whose bound is the read's own plus `c`, to a position at most `c` from the
end. -/
theorem Continues.movesOn {at' : ReadPos → Locals → Seq} {n m c : Nat} {q : Seq} (h : Continues i c q)
    (hnm : n ≤ m) (hread : ∀ p l, onProgram i (at' p l) = readPosOk n p)
    (hleft : ∀ p l, (at' p l).left = p.left m + c) (hcell : ∀ p l, (at' p l).cell? = none) (p : ReadPos)
    (l : Locals) : MovesOn i (at' p l) q where
  keeps_program _ := h.program
  left_lt hp := by
    have hpos := ReadPos.left_pos ((hread p l).symm.trans hp) hnm
    have hle := h.left_le
    rw [hleft]
    omega
  not_start := h.not_start
  same_cell := by rw [h.no_cell, hcell]

/-- The read that a command begins with. -/
theorem readsWithin_read {n : Nat} {onOk onShort : Locals → Seq} (hpos : 0 < n) (hn : n ≤ 4)
    (hread : ∀ p l, onProgram i (.read p l) = readPosOk n p) (hok : ∀ l, Continues i 10 (onOk l))
    (hshort : ∀ l, Continues i 10 (onShort l)) : ReadsWithin i .read n onOk onShort where
  pos := hpos
  inside hp' hlt l l' :=
    ⟨fun _ => (hread _ l').trans hp',
      fun hp => Nat.add_lt_add_right (ReadPos.left_lt_left ((hread _ l).symm.trans hp) hp' hn hlt) 10,
      nofun, rfl⟩
  ok p l l' := (hok l').movesOn hn hread (fun _ _ => rfl) (fun _ _ => rfl) p l
  short p l l' := (hshort l').movesOn hn hread (fun _ _ => rfl) (fun _ _ => rfl) p l

/-- The read of the flag that MEAST and MEASP set. -/
theorem readsWithin_flagRead {onOk onShort : Locals → Seq}
    (hread : ∀ p l, onProgram i (.flagRead p l) = readPosOk 1 p) (hok : ∀ l, Continues i 5 (onOk l))
    (hshort : ∀ l, Continues i 5 (onShort l)) : ReadsWithin i .flagRead 1 onOk onShort where
  pos := Nat.one_pos
  inside hp' hlt _ l' := ⟨fun _ => (hread _ l').trans hp', fun _ => Nat.add_lt_add_right hlt 5, nofun, rfl⟩
  ok p l l' := (hok l').movesOn le_rfl hread (fun _ _ => rfl) (fun _ _ => rfl) p l
  short p l l' := (hshort l').movesOn le_rfl hread (fun _ _ => rfl) (fun _ _ => rfl) p l

end Accesses

/-- The read of a cell, after which the command stands between that cell and the next. -/
theorem readsWithin_cell (k : Fin 14) :
    ReadsWithin .loadcal (.cell k) (cellRow k).width (fun l => .afterCell k (some l.v))
      (fun _ => .afterCell k none) := by
  have hafter : ∀ p l r, MovesOn .loadcal (.cell k p l) (.afterCell k r) := fun p l r =>
    ⟨fun _ => rfl, fun hp => Nat.lt_add_of_pos_left (ReadPos.left_pos hp le_rfl), nofun, rfl⟩
  exact
    { pos := cellRow_width_pos k
      inside := fun hp' hlt _ _ => ⟨fun _ => hp', fun _ => Nat.add_lt_add_right hlt _, nofun, rfl⟩
      ok := fun p l _ => hafter p l _
      short := fun p l _ => hafter p l _ }

/-! ### The commands, by the position in SEQ -/

section Commands
variable {i : Instr} {s : State}

/-- A read at the start of a command. -/
theorem movesOn_start_read {n : Nat} (hread : ∀ p l, onProgram i (.read p l) = readPosOk n p) (l : Locals) :
    MovesOn i .start (.read .reg l) :=
  ⟨fun _ => hread .reg l, fun _ => (by decide : 17 < 78), nofun, rfl⟩

theorem readCommand_does {n : Nat} {reg : Byte} {value : Locals → BitVec 64} {err : ErrCode}
    (hprogram : onProgram i = readProgram n) (hpos : 0 < n) (hn : n ≤ 4) (herr : err ≠ .noAck)
    (hvalue : ∀ v, EndsWith i s s .none { result := some v }) :
    Does i s (readCommand reg n value err s) := by
  have hread : ∀ p l, onProgram i (.read p l) = readPosOk n p := fun _ _ => by rw [hprogram]; rfl
  have hreads : ReadsWithin i .read n .finish (fun _ => .raise) :=
    readsWithin_read hpos hn hread (fun l => continues_finish l (by rw [hprogram]; rfl) (by decide))
      (fun _ => continues_raise (by rw [hprogram]; rfl) (by decide))
  unfold readCommand
  cases hseq : s.seq with
  | start => exact memRead_first_does (movesOn_start_read hread _) hseq reg
  | read p l => exact memRead_does hreads hseq reg
  | finish l => exact finish_does .keeps (hvalue _)
  | raise => exact finish_nothing_does herr
  | _ => exact .inr ⟨rfl, by rw [hprogram, hseq]; rfl⟩

theorem fieldCommand_does {reg : Byte} {sh : BitVec 3} {val : Byte} {err : ErrCode}
    (hprogram : onProgram i = fieldProgram) (herr : err ≠ .noAck) :
    Does i s (fieldCommand reg sh val err s) := by
  have hread : ∀ p l, onProgram i (.read p l) = readPosOk 1 p := fun _ _ => by rw [hprogram]; rfl
  have hwrite : ∀ p l, onProgram i (.write p l) = true := fun _ _ => by rw [hprogram]; rfl
  have hreads : ReadsWithin i .read 1 (fun l => .write .start l) (fun _ => .raise) :=
    readsWithin_read Nat.one_pos (by decide) hread (fun l => continues_write l (hwrite .start l) (by decide))
      (fun _ => continues_raise (by rw [hprogram]; rfl) (by decide))
  unfold fieldCommand
  cases hseq : s.seq with
  | start => exact memRead_first_does (movesOn_start_read hread _) hseq reg
  | read p l => exact memRead_does hreads hseq reg
  | write p l => exact memWrite_does hwrite (fun _ => by rw [hprogram]; rfl) hseq reg _
  | finish l => exact finish_nothing_does nofun
  | raise => exact finish_nothing_does herr
  | _ => exact .inr ⟨rfl, by rw [hprogram, hseq]; rfl⟩

theorem execWrite_does {reg val : Byte} : Does (.write reg val) s (execWrite reg val s) := by
  unfold execWrite
  cases hseq : s.seq with
  | start =>
    have hmove : MovesOn (.write reg val) .start (.write .reg Locals.init) :=
      ⟨fun _ => rfl, fun _ => by decide, nofun, rfl⟩
    exact issue_goto_does fun _ => hseq ▸ hmove
  | write p l => exact memWrite_does (fun _ _ => rfl) (fun _ => rfl) hseq reg val
  | finish l => exact finish_nothing_does nofun
  | _ => exact .inr ⟨rfl, by rw [hseq]; rfl⟩

theorem execSetbit_does {reg : Byte} {bit : BitVec 3} {on : BitVec 1} :
    Does (.setbit reg bit on) s (execSetbit reg bit on s) := by
  have hreads : ReadsWithin (.setbit reg bit on) .read 1 (fun l => .write .start l) .finish :=
    readsWithin_read Nat.one_pos (by decide) (fun _ _ => rfl) (fun l => continues_write l rfl (by decide))
      (fun l => continues_finish l rfl (by decide))
  unfold execSetbit
  cases hseq : s.seq with
  | start => exact memRead_first_does (movesOn_start_read (fun _ _ => rfl) _) hseq reg
  | read p l => exact memRead_does hreads hseq reg
  | write p l => exact memWrite_does (fun _ _ => rfl) (fun _ => rfl) hseq reg _
  | finish l => exact finish_nothing_does nofun
  | _ => exact .inr ⟨rfl, by rw [hseq]; rfl⟩

/-! ### LOADCAL -/

/-- The step after the last cell: the two ends of R182, with all outcomes staged. -/
theorem loadcalEnd_does {u : State} (hu : Stages .loadcal s u) (hstaged : stagingOk s → StagedFirst 14 u) :
    Does .loadcal s (loadcalEnd u) := by
  unfold loadcalEnd
  split
  next hall => exact finish_does hu (.loaded rfl hstaged hall)
  next => exact finish_does hu (.incomplete rfl hstaged)

theorem nextCell_does {k : Fin 14} {r : Option (BitVec 32)} (hseq : s.seq = .afterCell k r) :
    Does .loadcal s (nextCell k r s) := by
  have hu : Stages .loadcal s (s.stageResult k r) := .stages rfl hseq
  have hstaged : stagingOk s → StagedFirst (k.val + 1) (s.stageResult k r) := fun hs =>
    (stagingOk_iff.mp hs k (by rw [hseq]; rfl)).stageResult r
  unfold nextCell
  split
  next hk =>
    refine issue_does hu fun d => ⟨.cell ⟨k.val + 1, hk⟩ .reg Locals.init, by cases r <;> rfl,
      fun _ => rfl, fun _ => ?_, nofun, hstaged⟩
    rw [hseq]
    change _ < cellsLeft k
    rw [cellsLeft_eq_succ k hk]
    exact Nat.add_lt_add_right (Nat.lt_succ_self _) _
  next hk =>
    obtain hlast : k.val + 1 = 14 := by omega
    exact loadcalEnd_does hu (hlast ▸ hstaged)

theorem execLoadcal_does : Does .loadcal s (execLoadcal s) := by
  unfold execLoadcal
  cases hseq : s.seq with
  | start =>
    refine issue_does (.clears rfl hseq) fun d => ⟨.cell 0 .reg Locals.init, rfl, fun _ => rfl, fun _ => ?_,
      nofun, fun _ => stagedFirst_clearStageOk s⟩
    rw [hseq]
    exact (by decide : ReadPos.left (cellRow 0).width .reg + cellsLeft 0 < 78)
  | cell k p l => exact memRead_does (readsWithin_cell k) hseq _
  | afterCell k r => exact nextCell_does hseq
  | _ => exact .inr ⟨rfl, by rw [hseq]; rfl⟩

/-! ### The compensation commands -/

theorem whenCalibrated_does {body : State → Outcome} (h : s.status.calValid = true → Does i s (body s)) :
    Does i s (whenCalibrated body s) := by
  cases hcal : s.status.calValid with
  | true => rw [whenCalibrated_true hcal]; exact h hcal
  | false => rw [whenCalibrated_false hcal]; exact finish_nothing_does nofun

theorem whenTemperature_does {body : State → Outcome} (h : Does i s (body s)) :
    Does i s (whenTemperature body s) := by
  cases hcal : s.status.calValid with
  | false => rw [whenTemperature_uncalibrated hcal]; exact finish_nothing_does nofun
  | true =>
    cases htemp : s.status.tValid with
    | true => rw [whenTemperature_true hcal htemp]; exact h
    | false => rw [whenTemperature_false hcal htemp]; exact finish_nothing_does nofun

theorem execCompt_does {raw : Raw} : Does (.compt raw) s (execCompt raw s) := by
  unfold execCompt
  cases hseq : s.seq with
  | start =>
    exact whenCalibrated_does fun hcal => finish_does .keeps (.temperature (.inl ⟨raw, rfl⟩) (.inl hcal))
  | _ => exact .inr ⟨rfl, by rw [hseq]; rfl⟩

theorem execCompp_does {raw : Raw} : Does (.compp raw) s (execCompp raw s) := by
  unfold execCompp
  cases hseq : s.seq with
  | start => exact whenTemperature_does (finish_does .keeps (.value (by simp)))
  | _ => exact .inr ⟨rfl, by rw [hseq]; rfl⟩

section Measurements
variable (hprogram : onProgram i = measProgram)
include hprogram

theorem sampleRead_readsWithin :
    ReadsWithin i .read 3 (fun l => .flagRead .start { l with sample := l.raw }) (fun _ => .raise) :=
  readsWithin_read (by decide) (by decide) (fun _ _ => by rw [hprogram]; rfl)
    (fun _ => ⟨by rw [hprogram]; rfl, le_rfl, nofun, rfl⟩)
    (fun _ => continues_raise (by rw [hprogram]; rfl) (by decide))

theorem sampleRead_first_does (reg : Byte) (hseq : s.seq = .start) :
    Does i s (sampleRead reg .start Locals.init s) :=
  memRead_first_does (movesOn_start_read (n := 3) (fun _ _ => by rw [hprogram]; rfl) _) hseq reg

theorem flagRead_does {p : ReadPos} {l : Locals} (hseq : s.seq = .flagRead p l) :
    Does i s (rmwRead .flagRead regPowerControl .finish p l s) :=
  memRead_does (readsWithin_flagRead (fun _ _ => by rw [hprogram]; rfl)
    (fun l => continues_write l (by rw [hprogram]; rfl) (by decide))
    (fun l => continues_finish l (by rw [hprogram]; rfl) (by decide))) hseq _

theorem flagWrite_does {bit : BitVec 3} {p : WritePos} {l : Locals} (hseq : s.seq = .write p l) :
    Does i s (setBitWrite regPowerControl bit 1 p l s) :=
  memWrite_does (fun _ _ => by rw [hprogram]; rfl) (fun _ => by rw [hprogram]; rfl) hseq _ _

end Measurements

theorem execMeast_does : Does .meast s (execMeast s) := by
  unfold execMeast
  cases hseq : s.seq with
  | start => exact whenCalibrated_does fun _ => sampleRead_first_does rfl _ hseq
  | read p l => exact memRead_does (sampleRead_readsWithin rfl) hseq _
  | flagRead p l => exact flagRead_does rfl hseq
  | write p l => exact flagWrite_does rfl hseq
  | finish l =>
    have hnot : s.seq ≠ .start := by rw [hseq]; nofun
    exact finish_does .keeps (.temperature (.inr rfl) (.inr ⟨rfl, hnot⟩))
  | raise => exact finish_nothing_does nofun
  | _ => exact .inr ⟨rfl, by rw [hseq]; rfl⟩

theorem execMeasp_does : Does .measp s (execMeasp s) := by
  unfold execMeasp
  cases hseq : s.seq with
  | start => exact whenTemperature_does (sampleRead_first_does rfl _ hseq)
  | read p l => exact memRead_does (sampleRead_readsWithin rfl) hseq _
  | flagRead p l => exact flagRead_does rfl hseq
  | write p l => exact flagWrite_does rfl hseq
  | finish l => exact finish_does .keeps (.value (by simp))
  | raise => exact finish_nothing_does nofun
  | _ => exact .inr ⟨rfl, by rw [hseq]; rfl⟩

end Commands

theorem exec_does (i : Instr) (s : State) : Does i s (exec i s) := by
  cases i with
  | read w reg => exact readCommand_does rfl (Nat.succ_pos _) w.isLt nofun fun _ => .value (by simp)
  | write reg val => exact execWrite_does
  | setbit reg bit on => exact execSetbit_does
  | wfield reg sh val => exact fieldCommand_does rfl nofun
  | loadcal => exact execLoadcal_does
  | compt raw => exact execCompt_does
  | compp raw => exact execCompp_does
  | meast => exact execMeast_does
  | measp => exact execMeasp_does
  | setosr osrt osrp => exact fieldCommand_does rfl nofun
  | getosr => exact readCommand_does rfl Nat.one_pos (by decide) nofun fun _ => .value (by simp)
  | setiir iir => exact fieldCommand_does rfl nofun
  | getiir => exact readCommand_does rfl Nat.one_pos (by decide) nofun fun _ => .value (by simp)
  | setodr odr => exact fieldCommand_does rfl nofun
  | getodr => exact readCommand_does rfl Nat.one_pos (by decide) nofun fun _ => .value (by simp)

/-- Every step of a command is one of the three kinds. -/
theorem execStep_of_exec {i : Instr} {s t : State} (h : exec i s = .next t) : ExecStep i s t := by
  obtain ⟨t', heq, hstep⟩ | ⟨hfault, -⟩ := exec_does i s
  · rw [heq] at h
    injection h with h
    exact h ▸ hstep
  · simp [hfault] at h

/-- On its program a command always has a next state. -/
theorem exec_next {i : Instr} {s : State} (h : onProgram i s.seq = true) : ∃ t, exec i s = .next t := by
  obtain ⟨t, heq, -⟩ | ⟨-, hoff⟩ := exec_does i s
  · exact ⟨t, heq⟩
  · simp [hoff] at h

end Sys2Proof.Machine
end

section
/-! What one step of the whole can do (spec/10_state.md R55; spec/00_scope.md R6), and the statements that
follow from it for every step of every agent. -/

namespace Sys2Proof.Machine

/-! ### What staging leaves -/

section Stages
variable {i : Instr} {s u : State} (h : Stages i s u)
include h

theorem Stages.cmdlat_eq : u.cmdlat = s.cmdlat := by rw [h.frame]
theorem Stages.status_eq : u.status = s.status := by rw [h.frame]
theorem Stages.result_eq : u.result = s.result := by rw [h.frame]
theorem Stages.temp_eq : u.temp = s.temp := by rw [h.frame]
theorem Stages.cal_eq : u.cal = s.cal := by rw [h.frame]
theorem Stages.inputs_eq : u.inputs = s.inputs := by rw [h.frame]
theorem Stages.bus_eq : u.bus = s.bus := by rw [h.frame]

/-- Only the outcome of a good read changes STAGE. -/
theorem Stages.stage_cases (hne : u.stage ≠ s.stage) :
    i = .loadcal ∧ ∃ k v, s.seq = .afterCell k (some v) := by
  cases h with
  | keeps => exact absurd rfl hne
  | clears => exact absurd rfl hne
  | @stages k r hi hseq =>
    cases r with
    | none => exact absurd rfl hne
    | some v => exact ⟨hi, k, v, hseq⟩

/-- STAGE_OK is cleared once, and counts good reads. -/
theorem Stages.stageOk_cases (hne : u.stageOk ≠ s.stageOk) :
    i = .loadcal ∧ (s.seq = .start ∨ ∃ k v, s.seq = .afterCell k (some v)) := by
  cases h with
  | keeps => exact absurd rfl hne
  | clears hi hseq => exact ⟨hi, .inl hseq⟩
  | @stages k r hi hseq =>
    cases r with
    | none => exact absurd rfl hne
    | some v => exact ⟨hi, .inr ⟨k, v, hseq⟩⟩

end Stages

/-! ### The step of the whole -/

/-- A host access is an acceptance, or reaches no more of the block than OVR. -/
theorem hostAct_cases (s : State) (a : HostAct) :
    (∃ ovr log, s.hostAct a = s.waiting ovr log s.inputs) ∨
    (∃ off w, a = .write off w ∧ off.toNat / 4 = 0 ∧ s.status.busy = false ∧ s.hostAct a = s.accept w) := by
  cases hbusy : s.status.busy with
  | true => exact .inl (hostAct_busy hbusy a)
  | false =>
    cases a with
    | read off => exact .inl ⟨_, _, rfl⟩
    | write off w =>
      rw [State.hostAct]
      obtain ⟨hcmd, hsubmit⟩ | ⟨-, hstatus⟩ | ⟨-, -, hkeep⟩ := hostWrite_cases s off w
      · refine .inr ⟨off, w, rfl, csrAt_cmd_iff.mp hcmd, rfl, ?_⟩
        rw [hsubmit, State.submit, hbusy, if_neg Bool.false_ne_true]
      · rw [hstatus, writeStatus_eq]
        exact .inl ⟨_, _, rfl⟩
      · rw [hkeep]
        exact .inl ⟨_, _, s.waiting_self.symm⟩

/-- All that one step of the whole can do. -/
inductive WholeStep (s : State) : State → Prop
  /-- A host access, or a turn of the idle block, that changes at most OVR and the surroundings. -/
  | passes (ovr : Bool) (log : List (BitVec 8 × BitVec 32)) (ins : List Input) :
      WholeStep s (s.waiting ovr log ins)
  | accepts {off : BitVec 8} {w : Word} {rest : List Input} (hin : s.inputs = .host (.write off w) :: rest)
      (hoff : off.toNat / 4 = 0) (hidle : s.status.busy = false) :
      WholeStep s ({ s with inputs := rest }.accept w)
  | resets {rest : List Input} (hin : s.inputs = .reset :: rest) :
      WholeStep s { s with inputs := rest }.assertReset
  | rejects {e : DecodeError} (hbusy : s.status.busy = true) (hcommand : s.command = .error e) :
      WholeStep s ((s.takeTurn.commit {}).complete .illegalCommand)
  | executes {i : Instr} {t : State} (hbusy : s.status.busy = true) (hcommand : s.command = .ok i)
      (hexec : exec i s = .next t) (hstep : ExecStep i s t) : WholeStep s t

theorem wholeStep_of_step {s t : State} (h : step s = .next t) : WholeStep s t := by
  obtain ⟨a, rest, hin, rfl⟩ | ⟨rest, hin, rfl⟩ | ⟨-, -, hturn⟩ := step_cases h
  · rw [popInput_eq hin]
    obtain ⟨ovr, log, hact⟩ | ⟨off, w, rfl, hoff, hidle, hact⟩ := hostAct_cases { s with inputs := rest } a
    · exact hact ▸ .passes ovr log rest
    · exact hact ▸ .accepts hin hoff hidle
  · rw [popInput_eq hin]
    exact .resets hin
  · obtain ⟨-, rfl⟩ | ⟨hbusy, e, hcommand, hillegal⟩ | ⟨hbusy, i, hcommand, hexec⟩ := bceStep_cases hturn
    · exact .passes s.status.ovr s.hostLog (afterTurn s.inputs)
    · injection hillegal with heq
      exact heq ▸ .rejects hbusy hcommand
    · exact .executes hbusy hcommand hexec (execStep_of_exec hexec)

theorem ExecStep.cmdlat_eq {i : Instr} {s t : State} (h : ExecStep i s t) : t.cmdlat = s.cmdlat := by
  cases h with
  | waits => rfl
  | issues hu => exact hu.cmdlat_eq
  | ends hu => exact hu.cmdlat_eq

end Sys2Proof.Machine

namespace Sys2Proof
open Machine

/-- Settles O53: of all steps only an acceptance and reset load CMDLAT. -/
theorem commandLatchIsFrozenWhileBusy : Obligations.CommandLatchIsFrozenWhileBusy := by
  intro s t hstep
  cases wholeStep_of_step hstep with
  | passes => exact .inl rfl
  | accepts hin hoff hidle => exact .inr (.inr ⟨_, _, _, hin, hoff, hidle, rfl⟩)
  | resets hin => exact .inr (.inl ⟨_, hin, rfl⟩)
  | rejects => exact .inl rfl
  | executes _ _ _ hexec => exact .inl hexec.cmdlat_eq

/-- Settles O54: only an answered primitive emits, and it emits once. -/
theorem onePrimitivePerStep : Obligations.OnePrimitivePerStep := by
  intro s t hstep
  cases wholeStep_of_step hstep with
  | passes => exact .inl rfl
  | accepts => exact .inl rfl
  | resets => exact .inl rfl
  | rejects => exact .inl rfl
  | executes hbusy _ _ hexec =>
    cases hexec with
    | waits => exact .inl rfl
    | ends hu => exact .inl hu.bus_eq
    | @issues u d e q hu hanswer =>
      have hbusy' : u.status.busy = true := by rw [hu.status_eq, hbusy]
      have hin : afterTurn u.inputs = afterTurn s.inputs := by rw [hu.inputs_eq]
      have hbus : u.bus ++ [e] = s.bus ++ [e] := by rw [hu.bus_eq]
      exact .inr ⟨hbusy, hbusy', d, afterTurn s.inputs, e, firstAnswer_eq_some hanswer, hin, hbus⟩

/-- Settles O55: a step from BUSY = 1 to BUSY = 1 is a host access, a stall or a primitive. -/
theorem writesAppearAtCompletion : Obligations.WritesAppearAtCompletion := by
  intro s t hstep hbusy hbusy'
  cases wholeStep_of_step hstep with
  | passes => exact ⟨rfl, rfl, rfl, rfl⟩
  | accepts _ _ hidle => simp [hidle] at hbusy
  | resets => exact absurd hbusy' Bool.false_ne_true
  | rejects => exact absurd hbusy' Bool.false_ne_true
  | executes _ _ _ hexec =>
    cases hexec with
    | waits => exact ⟨rfl, rfl, rfl, rfl⟩
    | issues hu =>
      refine ⟨hu.result_eq, hu.temp_eq, hu.cal_eq, ?_⟩
      rw [State.goto_status, State.emit_status, State.takeTurn_status, hu.status_eq]
    | ends => exact absurd hbusy' Bool.false_ne_true

/-- Settles O57: `hostAct_busy` gives the whole state after a host access. -/
theorem hostStepsLeaveTheCommandAlone : Obligations.HostStepsLeaveTheCommandAlone := by
  intro s t a rest hbusy hin hstep
  obtain ⟨ovr, log, hact⟩ := hostAct_busy (s := { s with inputs := rest }) hbusy a
  rw [step_host hin, hact] at hstep
  injection hstep with heq
  rw [← heq]
  rfl

end Sys2Proof
end

section
/-! The invariant of every reachable state (spec/10_state.md R34, R45, R47; spec/42_compensation.md R218),
that no step stops the machine (spec/60_exceptions.md R290), and that every command ends
(spec/70_reset_and_hazards.md R340). -/

namespace Sys2Proof.Machine

/-! ### Steps that leave the command alone -/

section Invariant
variable {s : State}

theorem Inv.waiting (h : Inv s) (ovr : Bool) (log : List (BitVec 8 × BitVec 32)) (ins : List Input) :
    Inv (s.waiting ovr log ins) :=
  ⟨h.idle_iff, h.on_program, h.busy_not_done, h.err_reported, h.cal_ok_le, h.staging, h.cal_range,
    h.temp_calibrated, h.temp_range, h.meas_calibrated⟩

theorem onProgram_start (i : Instr) : onProgram i .start = true := by cases i <;> rfl

theorem not_onProgram_idle (i : Instr) : onProgram i .idle = false := by cases i <;> rfl

theorem Inv.accept (h : Inv s) (w : Word) : Inv (s.accept w) where
  idle_iff := by simp
  on_program _ i _ := onProgram_start i
  busy_not_done _ := rfl
  err_reported := h.err_reported
  cal_ok_le := h.cal_ok_le
  staging := trivial
  cal_range := h.cal_range
  temp_calibrated := h.temp_calibrated
  temp_range := h.temp_range
  meas_calibrated _ hne := absurd rfl hne

theorem calInRange_reset : calInRange (Vector.replicate 14 0) = true := by decide

theorem inv_assertReset (s : State) : Inv s.assertReset where
  idle_iff := by simp [Status.reset]
  on_program hbusy := absurd hbusy Bool.false_ne_true
  busy_not_done hbusy := absurd hbusy Bool.false_ne_true
  err_reported := nofun
  cal_ok_le := Nat.zero_le _
  staging := trivial
  cal_range := calInRange_reset
  temp_calibrated htemp := absurd htemp Bool.false_ne_true
  temp_range htemp := absurd htemp Bool.false_ne_true
  meas_calibrated hbusy := absurd hbusy Bool.false_ne_true

/-! ### A completed primitive -/

theorem Inv.seq_ne_idle (h : Inv s) (hbusy : s.status.busy = true) : s.seq ≠ .idle := fun hseq =>
  Bool.false_ne_true ((h.idle_iff.mpr hseq).symm.trans hbusy)

theorem ne_idle_of_onProgram {i : Instr} {q : Seq} (h : onProgram i q = true) : q ≠ .idle := by
  rintro rfl
  exact Bool.false_ne_true ((not_onProgram_idle i).symm.trans h)

/-- A measurement that is not refused at its start is calibrated. -/
theorem calValid_of_meas_start {i : Instr} {t : State} (hi : i = .meast ∨ i = .measp) (hseq : s.seq = .start)
    (hexec : exec i s = .next t) (hne : t.seq ≠ .idle) : s.status.calValid = true := by
  by_contra hcal
  rw [Bool.not_eq_true] at hcal
  obtain ⟨-, hrefused⟩ := uncalibratedCommandsAreRefused
  rw [hrefused i s (.inr (.inr hi)) hseq hcal] at hexec
  injection hexec with heq
  exact hne (heq ▸ rfl)

variable {i : Instr} {u : State}

theorem Inv.issued (h : Inv s) (hbusy : s.status.busy = true) (hcommand : s.command = .ok i)
    (hu : Stages i s u) {e : BusEvent} {q : Seq} (hadv : Advances i s ((u.takeTurn.emit e).goto q))
    (hexec : exec i s = .next ((u.takeTurn.emit e).goto q)) : Inv ((u.takeTurn.emit e).goto q) := by
  have hprogram : onProgram i q = true := hadv.keeps_program (h.on_program hbusy i hcommand)
  have hcal : i = .meast ∨ i = .measp → s.seq = .start → s.status.calValid = true := fun hi hseq =>
    calValid_of_meas_start hi hseq hexec (ne_idle_of_onProgram hprogram)
  obtain ⟨stage, stageOk, rfl⟩ := hu.exists_frame
  refine ⟨?_, fun _ j hj => ?_, h.busy_not_done, h.err_reported, h.cal_ok_le, hadv.keeps_staging h.staging,
    h.cal_range, h.temp_calibrated, h.temp_range, fun _ _ hmeas => ?_⟩
  · simp [hbusy, ne_idle_of_onProgram hprogram]
  · obtain rfl : i = j := Except.ok.inj (hcommand.symm.trans hj)
    exact hprogram
  · by_cases hseq : s.seq = .start
    · have hi : i = .meast ∨ i = .measp := hmeas.imp
        (fun hj => Except.ok.inj (hcommand.symm.trans hj)) (fun hj => Except.ok.inj (hcommand.symm.trans hj))
      exact hcal hi hseq
    · exact h.meas_calibrated hbusy hseq hmeas

/-! ### The end of a command -/

/-- Once idle, only the results are left to the invariant. -/
theorem inv_complete {c : ErrCode} (herr : c ≠ .noAck) (hok : u.status.calOk.toNat ≤ 14)
    (hcal : calInRange u.cal = true) (hvalid : u.status.tValid = true → u.status.calValid = true)
    (htemp : u.status.tValid = true → |u.temp.toInt| ≤ 1207943088) : Inv (u.complete c) where
  idle_iff := by simp
  on_program hbusy := absurd hbusy Bool.false_ne_true
  busy_not_done hbusy := absurd hbusy Bool.false_ne_true
  err_reported := herr
  cal_ok_le := hok
  staging := trivial
  cal_range := hcal
  temp_calibrated := hvalid
  temp_range := htemp
  meas_calibrated hbusy := absurd hbusy Bool.false_ne_true

theorem StagedFirst.stageOk_le {m : Nat} (h : StagedFirst m u) : u.stageOk.toNat ≤ m := And.left h

/-- Where all 14 cells are staged, STAGE is in range, which is what LOADCAL commits. -/
theorem StagedFirst.calInRange (h : StagedFirst 14 u) (hall : u.stageOk = 14) :
    calInRange u.stage = true := by
  obtain ⟨-, hcells⟩ := h
  exact List.all_eq_true.mpr fun k _ => hcells (by rw [hall]; rfl) k k.isLt

theorem Inv.ended (h : Inv s) (hbusy : s.status.busy = true) (hcommand : s.command = .ok i)
    (hu : Stages i s u) {c : ErrCode} {w : Writes} (hend : EndsWith i s u c w) :
    Inv ((u.takeTurn.commit w).complete c) := by
  obtain ⟨stage, stageOk, rfl⟩ := hu.exists_frame
  cases hend with
  | nothing hc => exact inv_complete hc h.cal_ok_le h.cal_range h.temp_calibrated h.temp_range
  | value => exact inv_complete nofun h.cal_ok_le h.cal_range h.temp_calibrated h.temp_range
  | @temperature raw _ hchecked =>
    have hvalid : s.status.calValid = true := by
      obtain hcal | ⟨rfl, hseq⟩ := hchecked
      · exact hcal
      · exact h.meas_calibrated hbusy hseq (.inl hcommand)
    have hrange : |(tempWord s.cal raw).toInt| ≤ 1207943088 := by
      rw [tempWord_toInt h.cal_range]
      exact abs_tempComp_le h.cal_range raw
    exact inv_complete nofun h.cal_ok_le h.cal_range (fun _ => hvalid) (fun _ => hrange)
  | loaded _ hstaged hall =>
    have hcells := hstaged h.staging
    exact inv_complete nofun hcells.stageOk_le (hcells.calInRange hall) (fun _ => rfl) nofun
  | incomplete _ hstaged =>
    exact inv_complete nofun (hstaged h.staging).stageOk_le h.cal_range nofun nofun

theorem Inv.step {t : State} (h : Inv s) (hstep : step s = .next t) : Inv t := by
  cases wholeStep_of_step hstep with
  | passes ovr log ins => exact h.waiting ovr log ins
  | @accepts _ w rest => exact (h.waiting s.status.ovr s.hostLog rest).accept w
  | resets => exact inv_assertReset _
  | rejects => exact inv_complete nofun h.cal_ok_le h.cal_range h.temp_calibrated h.temp_range
  | executes hbusy hcommand hexec hkind =>
    cases hkind with
    | waits => exact h
    | issues hu _ hadv => exact h.issued hbusy hcommand hu hadv hexec
    | ends hu hend => exact h.ended hbusy hcommand hu hend

end Invariant

/-! ### Every command ends -/

section Ends
variable {s : State}

/-- A busy block within the invariant takes a step of its command, or rejects its word. -/
theorem Inv.exists_bceStep (h : Inv s) : ∃ t, bceStep s = .next t := by
  cases hbusy : s.status.busy with
  | false => exact ⟨_, bceStep_idle hbusy⟩
  | true =>
    cases hcommand : s.command with
    | error e =>
      simp only [bceStep, hbusy, hcommand, if_true]
      exact ⟨_, rfl⟩
    | ok i =>
      simp only [bceStep, hbusy, hcommand, if_true]
      exact exec_next (h.on_program hbusy i hcommand)

theorem Inv.exists_step (h : Inv s) : ∃ t, Machine.step s = .next t := by
  cases hin : s.inputs with
  | nil => rw [step_bceTurn (.inr hin)]; exact h.exists_bceStep
  | cons a rest =>
    cases a with
    | host a => exact ⟨_, step_host hin⟩
    | reset => exact ⟨_, step_reset hin⟩
    | bce d => rw [step_bceTurn (.inl ⟨d, rest, hin⟩)]; exact h.exists_bceStep

/-- The command has completed (spec/10_state.md R36). -/
def Completed (t : State) : Prop := t.status.busy = false ∧ t.status.done = true ∧ t.seq = .idle

/-- A step that the transport answers brings the command nearer to its end, or ends it. -/
theorem Inv.answered (h : Inv s) (hbusy : s.status.busy = true) {d : Byte} {rest : List Input}
    (hin : s.inputs = .bce d :: rest) : ∃ t, Machine.step s = .next t ∧
      (Completed t ∨ (t.status.busy = true ∧ t.inputs = rest ∧ t.seq.left < s.seq.left)) := by
  obtain ⟨t, hstep⟩ := h.exists_step
  refine ⟨t, hstep, ?_⟩
  rw [step_bceTurn (.inl ⟨d, rest, hin⟩)] at hstep
  obtain ⟨hidle, -⟩ | ⟨-, e, -, hillegal⟩ | ⟨-, i, hcommand, hexec⟩ := bceStep_cases hstep
  · simp [hbusy] at hidle
  · injection hillegal with heq
    exact .inl (heq ▸ ⟨rfl, rfl, rfl⟩)
  · cases execStep_of_exec hexec with
    | waits hwait => simp [hin, firstAnswer] at hwait
    | ends => exact .inl ⟨rfl, rfl, rfl⟩
    | issues hu _ hadv =>
      obtain ⟨stage, stageOk, rfl⟩ := hu.exists_frame
      exact .inr ⟨hbusy, congrArg afterTurn hin, hadv.left_lt (h.on_program hbusy i hcommand)⟩

/-- By induction on the steps left, with the transport answering each of them. -/
theorem Inv.completes {n : Nat} (h : Inv s) (hbusy : s.status.busy = true) {ds : List Byte}
    {rest : List Input} (hin : s.inputs = turns ds rest) (hleft : s.seq.left ≤ n) (hlength : n ≤ ds.length) :
    ∃ m t, m ≤ n ∧ runSteps m s = .next t ∧ Completed t := by
  have hpos := Seq.left_pos (h.seq_ne_idle hbusy)
  induction n generalizing s ds with
  | zero => omega
  | succ n ih =>
    cases ds with
    | nil => simp at hlength
    | cons d ds =>
      obtain ⟨t, hstep, hend | ⟨hbusy', hrest, hlt⟩⟩ := h.answered hbusy hin
      · exact ⟨1, t, by omega, runSteps_succ hstep, hend⟩
      · have ht := h.step hstep
        obtain ⟨m, t', hm, hrun, hend⟩ := ih ht hbusy' hrest (by omega) (Nat.le_of_succ_le_succ hlength)
          (Seq.left_pos (ht.seq_ne_idle hbusy'))
        exact ⟨m + 1, t', by omega, (runSteps_succ hstep).trans hrun, hend⟩

end Ends

end Sys2Proof.Machine

namespace Sys2Proof
open Machine

/-- Settles O50: by the kinds of step of the whole, and of a command. -/
theorem stepKeepsInvariant : Obligations.StepKeepsInvariant := fun _ _ h hstep => h.step hstep

/-- Settles O49: the reset state is what the reset event leaves of itself. -/
theorem resetSatisfiesInvariant : Obligations.ResetSatisfiesInvariant := inv_assertReset State.reset

/-- Settles O51: on its program a command has a next state, and so has every other agent. -/
theorem nothingStopsTheMachine : Obligations.NothingStopsTheMachine := fun _ h => h.exists_step

/-- Settles O52: no position is more than 78 steps from its command's end (`Seq.left_le`), and each answered
step comes nearer to it. -/
theorem everyCommandEnds : Obligations.EveryCommandEnds := by
  intro s ds rest h hbusy hin hlength
  obtain ⟨n, t, hn, hrun, hidle, hdone, hseq⟩ := h.completes hbusy hin s.seq.left_le hlength
  exact ⟨n, t, hn, hrun, hidle, hdone, hseq⟩

end Sys2Proof
end

section
/-! Which commands write which results (spec/10_state.md R40 to R47), and the steps that change STAGE and
STAGE_OK (spec/10_state.md R55, spec/41_calibration.md R182). -/

namespace Sys2Proof.Machine

/-- The step from `s` to `t` completes a command (spec/10_state.md R36). -/
def Completes (s t : State) : Prop := s.status.busy = true ∧ Completed t

/-- TEMP, CAL, CAL_VALID, CAL_OK, T_VALID and RESULT each change from `s` to `t` only as a command of theirs
completes. -/
structure ResultsAreOwn (s t : State) : Prop where
  temp : t.temp ≠ s.temp → Completes s t ∧ t.status.err = .none ∧
    ((∃ raw, s.command = .ok (.compt raw)) ∨ s.command = .ok .meast)
  cal : t.cal ≠ s.cal → Completes s t ∧ t.status.err = .none ∧ s.command = .ok .loadcal
  calValid : t.status.calValid ≠ s.status.calValid → Completes s t ∧ s.command = .ok .loadcal
  calOk : t.status.calOk ≠ s.status.calOk → Completes s t ∧ s.command = .ok .loadcal
  tValid : t.status.tValid ≠ s.status.tValid → Completes s t ∧
    ((t.status.tValid = true ∧ t.status.err = .none ∧
      ((∃ raw, s.command = .ok (.compt raw)) ∨ s.command = .ok .meast)) ∨
    (t.status.tValid = false ∧ s.command = .ok .loadcal))
  result : t.result ≠ s.result → Completes s t ∧ t.status.err = .none ∧
    ((∃ w reg, s.command = .ok (.read w reg)) ∨ s.command = .ok .getosr ∨ s.command = .ok .getiir ∨
      s.command = .ok .getodr ∨ (∃ raw, s.command = .ok (.compt raw)) ∨
      (∃ raw, s.command = .ok (.compp raw)) ∨ s.command = .ok .meast ∨ s.command = .ok .measp)

/-- A step that changes none of the results. -/
theorem resultsAreOwn_of_eq {s t : State} (htemp : t.temp = s.temp) (hcal : t.cal = s.cal)
    (hresult : t.result = s.result) (hcalValid : t.status.calValid = s.status.calValid)
    (hcalOk : t.status.calOk = s.status.calOk) (htValid : t.status.tValid = s.status.tValid) :
    ResultsAreOwn s t :=
  ⟨(absurd htemp ·), (absurd hcal ·), (absurd hcalValid ·), (absurd hcalOk ·), (absurd htValid ·),
    (absurd hresult ·)⟩

/-- The five ends of a command, each with the results that it writes. -/
theorem EndsWith.resultsAreOwn {i : Instr} {s u : State} {c : ErrCode} {w : Writes} (h : EndsWith i s u c w)
    (hu : Stages i s u) (hbusy : s.status.busy = true) (hcommand : s.command = .ok i) :
    ResultsAreOwn s ((u.takeTurn.commit w).complete c) := by
  have hends : Completes s ((u.takeTurn.commit w).complete c) := ⟨hbusy, rfl, rfl, rfl⟩
  obtain ⟨stage, stageOk, rfl⟩ := hu.exists_frame
  cases h with
  | nothing => exact resultsAreOwn_of_eq rfl rfl rfl rfl rfl rfl
  | value hi =>
    refine ⟨absurd rfl, absurd rfl, absurd rfl, absurd rfl, absurd rfl, fun _ => ⟨hends, rfl, ?_⟩⟩
    simp only [hcommand, Except.ok.injEq]
    grind
  | temperature hi =>
    have hown : (∃ raw, s.command = .ok (.compt raw)) ∨ s.command = .ok .meast := by
      simpa only [hcommand, Except.ok.injEq] using hi
    refine ⟨fun _ => ⟨hends, rfl, hown⟩, absurd rfl, absurd rfl, absurd rfl,
      fun _ => ⟨hends, .inl ⟨rfl, rfl, hown⟩⟩, fun _ => ⟨hends, rfl, by grind⟩⟩
  | loaded hi =>
    have hown : s.command = .ok .loadcal := hi ▸ hcommand
    exact ⟨absurd rfl, fun _ => ⟨hends, rfl, hown⟩, fun _ => ⟨hends, hown⟩, fun _ => ⟨hends, hown⟩,
      fun _ => ⟨hends, .inr ⟨rfl, hown⟩⟩, absurd rfl⟩
  | incomplete hi =>
    have hown : s.command = .ok .loadcal := hi ▸ hcommand
    exact ⟨absurd rfl, absurd rfl, fun _ => ⟨hends, hown⟩, fun _ => ⟨hends, hown⟩,
      fun _ => ⟨hends, .inr ⟨rfl, hown⟩⟩, absurd rfl⟩

theorem WholeStep.resultsAreOwn {s t : State} (h : WholeStep s t)
    (hreset : ∀ rest, s.inputs ≠ .reset :: rest) : ResultsAreOwn s t := by
  cases h with
  | passes => exact resultsAreOwn_of_eq rfl rfl rfl rfl rfl rfl
  | accepts => exact resultsAreOwn_of_eq rfl rfl rfl rfl rfl rfl
  | resets hin => exact absurd hin (hreset _)
  | rejects => exact resultsAreOwn_of_eq rfl rfl rfl rfl rfl rfl
  | executes hbusy hcommand _ hexec =>
    cases hexec with
    | waits => exact resultsAreOwn_of_eq rfl rfl rfl rfl rfl rfl
    | issues hu =>
      obtain ⟨stage, stageOk, rfl⟩ := hu.exists_frame
      exact resultsAreOwn_of_eq rfl rfl rfl rfl rfl rfl
    | ends hu hend => exact hend.resultsAreOwn hu hbusy hcommand

/-- Outside reset STAGE and STAGE_OK change by the staging of a command's step alone. -/
theorem WholeStep.staging {s t : State} (h : WholeStep s t) (hreset : ∀ rest, s.inputs ≠ .reset :: rest) :
    (t.stage = s.stage ∧ t.stageOk = s.stageOk) ∨
    ∃ i u, s.command = .ok i ∧ Stages i s u ∧ t.stage = u.stage ∧ t.stageOk = u.stageOk := by
  cases h with
  | passes => exact .inl ⟨rfl, rfl⟩
  | accepts => exact .inl ⟨rfl, rfl⟩
  | resets hin => exact absurd hin (hreset _)
  | rejects => exact .inl ⟨rfl, rfl⟩
  | executes _ hcommand _ hexec =>
    cases hexec with
    | waits => exact .inl ⟨rfl, rfl⟩
    | issues hu => exact .inr ⟨_, _, hcommand, hu, rfl, rfl⟩
    | ends hu => exact .inr ⟨_, _, hcommand, hu, rfl, rfl⟩

end Sys2Proof.Machine

namespace Sys2Proof
open Machine

/-- Settles O56: the ends of the commands are the only steps that write results (`EndsWith.resultsAreOwn`). -/
theorem onlyTheirCommandsWriteResults : Obligations.OnlyTheirCommandsWriteResults := by
  intro s t hstep hreset
  obtain ⟨htemp, hcal, hcalValid, hcalOk, htValid, hresult⟩ := (wholeStep_of_step hstep).resultsAreOwn hreset
  exact ⟨htemp, hcal, hcalValid, hcalOk, htValid, hresult⟩

/-- Settles O59: the step after a cell is `nextCell`, and no other step but LOADCAL's first stages
(`Stages.stage_cases`, `Stages.stageOk_cases`). -/
theorem stagingBelongsToTheNextStep : Obligations.StagingBelongsToTheNextStep := by
  refine ⟨fun s k r hk d rest hseq hin => ?_, fun s t hstep hreset => ?_⟩
  · have hanswer : firstAnswer s.inputs = some d := by rw [hin, firstAnswer_bce]
    have hrest : afterTurn s.inputs = rest := by rw [hin, afterTurn_bce]
    simp only [exec, execLoadcal, hseq, nextCell, dif_pos hk]
    rw [issue_answered hanswer, State.takeTurn, hrest]
    cases r <;> rfl
  · obtain ⟨hstage, hstageOk⟩ | ⟨i, u, hcommand, hu, hstage, hstageOk⟩ :=
      (wholeStep_of_step hstep).staging hreset
    · exact ⟨absurd hstage, absurd hstageOk⟩
    · refine ⟨fun hne => ?_, fun hne => ?_⟩
      · obtain ⟨rfl, hcell⟩ := hu.stage_cases (hstage ▸ hne)
        exact ⟨hcommand, hcell⟩
      · obtain ⟨rfl, hposition⟩ := hu.stageOk_cases (hstageOk ▸ hne)
        exact ⟨hcommand, hposition⟩

end Sys2Proof
end

section
/-! One turn of the block and one host write as whole next states (spec/10_state.md R34, R35, R55;
spec/70_reset_and_hazards.md R344). -/

namespace Sys2Proof.Machine

/-- A turn of a busy block is one step of the command in CMDLAT. -/
theorem bceStep_busy {i : Instr} {s : State} (hbusy : s.status.busy = true) (hdec : decode s.cmdlat = .ok i) :
    bceStep s = exec i s := by
  have hcommand : s.command = .ok i := hdec
  simp only [bceStep, hbusy, hcommand, if_true]

theorem submit_idle {s : State} (w : Word) (h : s.status.busy = false) : s.submit w = s.accept w := by
  simp [State.submit, h]

/-- A word placed by `withFetchWord` with its full 32 bits is the word itself. -/
theorem withFetchWord_toNat (s : State) (w : Word) : s.withFetchWord 32 w.toNat = s.loadCommand w := by
  rw [State.withFetchWord, Nat.mod_eq_of_lt w.isLt, BitVec.ofNat_toNat, BitVec.setWidth_eq]

theorem started_loadCommand (s : State) (i : Instr) : Started i (s.loadCommand (encode i)) := ⟨rfl, rfl, rfl⟩

end Sys2Proof.Machine

namespace Sys2Proof
open Machine

/-- Settles O7: the turn by `bceStep_busy`, the access by `step_host`. -/
theorem stepRunsTheLatchedCommand : Obligations.StepRunsTheLatchedCommand := by
  refine fun s => ⟨fun i hbusy hdec => ⟨fun d rest hin => ?_, fun hin => ?_⟩, fun a rest hin => step_host hin⟩
  · rw [step_bceTurn (.inl ⟨d, rest, hin⟩), bceStep_busy hbusy hdec]
  · rw [step_bceTurn (.inr hin), bceStep_busy hbusy hdec]

/-- Settles O8: the placed word decodes to the command again (O1). -/
theorem loadedWordRunsNext : Obligations.LoadedWordRunsNext := by
  intro s i
  rw [withFetchWord_toNat]
  exact ⟨started_loadCommand s i, (step_bceTurn (.inl ⟨0, s.inputs, rfl⟩)).trans
    (bceStep_busy rfl (decodeEncodeAgree i))⟩

/-- Settles O9: offset word 0 is CMD, and an idle block accepts what is written there. -/
theorem idleBlockAcceptsCommand : Obligations.IdleBlockAcceptsCommand := by
  intro s off w rest hidle hoff hin
  have haccept := submit_idle (s := { s with inputs := rest }) w hidle
  rw [step_host hin, State.hostAct, hostWrite_cmd _ w hoff, haccept]
  rfl

/-- Settles O17: the turn of an idle block takes an input where there is one. -/
theorem idleBlockIsQuiescent : Obligations.IdleBlockIsQuiescent := by
  refine fun s hidle => ⟨fun hin => ?_, fun d rest hin => ?_⟩
  · rw [step_bceTurn (.inr hin), bceStep_idle hidle, State.takeTurn, hin, afterTurn_nil, ← hin]
  · rw [step_bceTurn (.inl ⟨d, rest, hin⟩), bceStep_idle hidle, State.takeTurn, hin, afterTurn_bce]

end Sys2Proof
end

section
/-! One step of each command as a whole next state (spec/40_register_access.md R142 to R148,
spec/41_calibration.md R182, R183, spec/42_compensation.md R222, R223, spec/43_configuration.md R264 to
R269): the finish, the raise, and the primitive that carries the byte of a write. -/

namespace Sys2Proof.Machine

variable {s : State} {l : Locals} {reg : Byte} {err : ErrCode}

/-! ### Commands that read -/

section ReadCommand
variable {n : Nat} {value : Locals → BitVec 64}

theorem readCommand_finish (hseq : s.seq = .finish l) :
    readCommand reg n value err s =
      .next { s.ended .none [] (afterTurn s.inputs) with result := value l } := by
  simp only [readCommand, hseq]
  exact finish_eq_ended _ _ s

theorem readCommand_raise (hseq : s.seq = .raise) :
    readCommand reg n value err s = .next (s.ended err [] (afterTurn s.inputs)) := by
  simp only [readCommand, hseq]
  exact finish_nothing err s

end ReadCommand

theorem setWidth_readValue (v : BitVec 32) : v.setWidth 64 = 0#32 ++ v :=
  BitVec.setWidth_eq_append (by decide)

/-! ### Commands that write -/

/-- The primitive that carries the byte of a write has completed, in a command that stood there with `l`. -/
def State.wrote (s : State) (l : Locals) (rest : List Input) (v : Byte) : State :=
  { s with inputs := rest, bus := s.bus ++ [.busWrite v], seq := .write .stop l }

theorem memWrite_val_answered {v d : Byte} {next : Locals → Seq} {rest : List Input}
    (hin : s.inputs = .bce d :: rest) : memWrite reg v next .val l s = .next (s.wrote l rest v) := by
  have hanswer : firstAnswer s.inputs = some d := by rw [hin, firstAnswer_bce]
  rw [memWrite_val, issue_answered hanswer, State.takeTurn, hin, afterTurn_bce]
  rfl

section FieldCommand
variable {sh : BitVec 3} {val : Byte}

theorem fieldCommand_write {p : WritePos} (hseq : s.seq = .write p l) :
    fieldCommand reg sh val err s = memWrite reg (fieldValue l.byte sh val) .finish p l s := by
  simp only [fieldCommand, hseq]
  rfl

theorem fieldCommand_finish (hseq : s.seq = .finish l) :
    fieldCommand reg sh val err s = .next (s.ended .none [] (afterTurn s.inputs)) := by
  simp only [fieldCommand, hseq]
  exact finish_nothing .none s

theorem fieldCommand_raise (hseq : s.seq = .raise) :
    fieldCommand reg sh val err s = .next (s.ended err [] (afterTurn s.inputs)) := by
  simp only [fieldCommand, hseq]
  exact finish_nothing err s

end FieldCommand

/-! ### The end of LOADCAL -/

theorem exec_loadcal_last {r : Option (BitVec 32)} (hseq : s.seq = .afterCell 13 r) :
    exec .loadcal s = loadcalEnd (s.stageResult 13 r) := by
  simp only [exec, execLoadcal, hseq]
  rfl

theorem loadcalEnd_complete (hall : s.stageOk = 14) :
    loadcalEnd s = .next { s.ended .none [] (afterTurn s.inputs) with
      cal := s.stage
      status := { s.status with
        calOk := 14, calValid := true, tValid := false, err := .none, busy := false, done := true } } := by
  rw [loadcalEnd, if_pos hall, finish_eq_ended, hall]
  rfl

theorem loadcalEnd_incomplete (hshort : s.stageOk ≠ 14) :
    loadcalEnd s = .next { s.ended .calIncomplete [] (afterTurn s.inputs) with
      status := { s.status with
        calOk := s.stageOk, calValid := false, tValid := false, err := .calIncomplete, busy := false,
        done := true } } := by
  rw [loadcalEnd, if_neg hshort, raiseError_eq, finish_eq_ended]
  rfl

end Sys2Proof.Machine

namespace Sys2Proof
open Machine

/-- Settles O19: each of the four is `readCommand` with its own value. -/
theorem readingCommandsReturnTheirValue : Obligations.ReadingCommandsReturnTheirValue := by
  intro s l hseq
  rw [← osrResult_eq_append, ← iirResult_eq_append, ← odrResult_eq_append, ← setWidth_readValue]
  exact ⟨fun w reg => readCommand_finish hseq, readCommand_finish hseq, readCommand_finish hseq,
    readCommand_finish hseq⟩

/-- Settles O20: the finish of WRITE, SETBIT and `fieldCommand` writes nothing. -/
theorem writingCommandsEndCleanly : Obligations.WritingCommandsEndCleanly := by
  intro s l hseq
  refine ⟨fun reg val => ?_, fun reg bit on => ?_, fun reg sh val => fieldCommand_finish hseq,
    fun osrt osrp => fieldCommand_finish hseq, fun iir => fieldCommand_finish hseq,
    fun odr => fieldCommand_finish hseq⟩
  · simp only [exec, execWrite, hseq]
    exact finish_nothing .none s
  · simp only [exec, execSetbit, hseq]
    exact finish_nothing .none s

/-- Settles O21: `memWrite_val_answered` puts the byte on the bus, and the lemmas on `setBitValue` and
`fieldValue` say which byte. -/
theorem registerWritesCarryTheirByte : Obligations.RegisterWritesCarryTheirByte := by
  intro s l d rest hseq hin put
  have hfield : ∀ {reg : Byte} {sh : BitVec 3} {val : Byte} {err : ErrCode} {v : Byte},
      fieldValue l.byte sh val = v → fieldCommand reg sh val err s = .next (put v) := fun hv => by
    rw [fieldCommand_write hseq, hv]
    exact memWrite_val_answered hin
  refine ⟨fun reg val => ?_, fun reg bit on => ?_, fun reg sh val => ?_, ?_, ?_, fun osrt osrp => ?_,
    fun iir => ?_, fun odr => ?_⟩
  · simp only [exec, execWrite, hseq]
    exact memWrite_val_answered hin
  · simp only [exec, execSetbit, hseq, setBitWrite, setBitValue_eq]
    exact memWrite_val_answered hin
  · exact hfield (fieldValue_eq_ofNat _ sh val)
  · simp only [exec, execMeast, hseq]
    exact memWrite_val_answered hin
  · simp only [exec, execMeasp, hseq]
    exact memWrite_val_answered hin
  · exact hfield (by rw [fieldValue_zero, packOsr_eq_append])
  · exact hfield (fieldValue_one_iir _ iir)
  · exact hfield (by rw [fieldValue_zero, setWidth_odr])

/-- Settles O22: each command raises the error that it hands to its shared operation. -/
theorem failedReadRaisesItsError : Obligations.FailedReadRaisesItsError := by
  refine ⟨rfl, rfl, rfl, fun s hseq => ⟨?_, ?_, ?_⟩⟩
  · rintro i (⟨w, reg, rfl⟩ | ⟨reg, sh, val, rfl⟩)
    · exact readCommand_raise hseq
    · exact fieldCommand_raise hseq
  · rintro i (rfl | rfl)
    · simp only [exec, execMeast, hseq]
      exact finish_nothing .measurement s
    · simp only [exec, execMeasp, hseq]
      exact finish_nothing .measurement s
  · rintro i (⟨osrt, osrp, rfl⟩ | ⟨iir, rfl⟩ | ⟨odr, rfl⟩ | rfl | rfl | rfl)
    · exact fieldCommand_raise hseq
    · exact fieldCommand_raise hseq
    · exact fieldCommand_raise hseq
    · exact readCommand_raise hseq
    · exact readCommand_raise hseq
    · exact readCommand_raise hseq

/-- Settles O25: the finish compensates the kept sample with the writes of `finishTemp` and `finishPress`. -/
theorem measurementsCompensateTheirSample : Obligations.MeasurementsCompensateTheirSample := by
  refine fun s l hseq => ⟨?_, ?_⟩
  · simp only [exec, execMeast, hseq, finishTemp, finish_eq_ended]
    rfl
  · simp only [exec, execMeasp, hseq, finishPress, finish_eq_ended]
    rfl

/-- Settles O26: the last step stages the outcome of cell 13, and then STAGE_OK decides. -/
theorem loadcalCommitsAllOrNothing : Obligations.LoadcalCommitsAllOrNothing := by
  refine ⟨rfl, fun s r hseq => ?_⟩
  rw [exec_loadcal_last hseq]
  cases r with
  | none => exact ⟨fun hall => loadcalEnd_complete hall, fun hshort => loadcalEnd_incomplete hshort⟩
  | some v =>
    exact ⟨fun hall => loadcalEnd_complete (s := s.stageResult 13 (some v)) hall,
      fun hshort => loadcalEnd_incomplete (s := s.stageResult 13 (some v)) hshort⟩

end Sys2Proof
end

section
/-! The datapath against the formulas it evaluates (spec/42_compensation.md R213 to R216, R219), and the
widths of its stages (R218). -/

namespace Sys2Proof.Machine

/-! ### Exactness -/

/-- The coefficients' exponents are the scales of the stages (R184, R213). -/
theorem tempN_eq_ideal (cal : Vector CellWord 14) (raw : Raw) :
    (tempN cal raw : ℚ) = tempIdeal cal raw * 2 ^ 48 := by
  have hexponents : exponent 0 = 8 ∧ exponent 1 = -30 ∧ exponent 2 = -48 := by decide
  obtain ⟨h0, h1, h2⟩ := hexponents
  simp only [tempN, tempAcc, tempSq, tempD1, tempIdeal, coefficient, h0, h1, h2, shl]
  push_cast
  ring

/-- As `tempN_eq_ideal`, at the temperature that `t` stands for in Q11.20. -/
theorem pressN_eq_ideal (cal : Vector CellWord 14) (up : Raw) (t : Int) :
    (pressN cal up t : ℚ) = pressIdeal cal up ((t : ℚ) / 2 ^ 20) * 2 ^ 97 := by
  have hexponents : exponent 3 = -20 ∧ exponent 4 = -29 ∧ exponent 5 = -32 ∧ exponent 6 = -37 ∧
      exponent 7 = 3 ∧ exponent 8 = -6 ∧ exponent 9 = -8 ∧ exponent 10 = -15 ∧ exponent 11 = -48 ∧
      exponent 12 = -48 ∧ exponent 13 = -65 := by decide
  obtain ⟨h3, h4, h5, h6, h7, h8, h9, h10, h11, h12, h13⟩ := hexponents
  simp only [pressN, pressO, pressS, pressQ, pressK, pressT2, pressT3, pressU2, pressU3, pressIdeal,
    coefficient, h3, h4, h5, h6, h7, h8, h9, h10, h11, h12, h13, shl]
  push_cast
  ring

/-- An integer that is exactly `y * 2^s`, shifted right by `s` with rounding, is `y` rounded to nearest, a tie
up: `rnd_error_bounds` over the rationals, in units of `2^s`. -/
theorem rnd_nearest {n : Int} {y : ℚ} {s : Nat} (hs : 1 ≤ s) (hn : (n : ℚ) = y * 2 ^ s) :
    -(1 / 2 : ℚ) ≤ y - rnd n s ∧ y - rnd n s < 1 / 2 := by
  obtain ⟨hlow, hhigh⟩ := rnd_error_bounds n hs
  have hlow' : ((-(2 ^ (s - 1)) : Int) : ℚ) ≤ ((n - rnd n s * 2 ^ s : Int) : ℚ) := Int.cast_le.mpr hlow
  have hhigh' : ((n - rnd n s * 2 ^ s : Int) : ℚ) < ((2 ^ (s - 1) : Int) : ℚ) := Int.cast_lt.mpr hhigh
  have hhalf : (2 : ℚ) ^ s = 2 * 2 ^ (s - 1) := by exact_mod_cast two_pow_eq_two_mul_half hs
  have hpos : (0 : ℚ) < 2 * 2 ^ (s - 1) := by positivity
  push_cast [hn, hhalf] at hlow' hhigh'
  exact ⟨le_of_mul_le_mul_right (by linarith) hpos, lt_of_mul_lt_mul_right (by linarith) hpos.le⟩

/-- What is half a unit off at scale `2^m` stands for its value to `2^-(m+1)`. -/
theorem abs_div_sub_le {x z : ℚ} (m : Nat) (h : |x * 2 ^ m - z| ≤ 1 / 2) :
    |z / 2 ^ m - x| ≤ 1 / 2 ^ (m + 1) := by
  have hunit : (0 : ℚ) < 2 ^ m := by positivity
  have hdiff : z / 2 ^ m - x = -((x * 2 ^ m - z) / 2 ^ m) := by
    field_simp
    ring
  calc |z / 2 ^ m - x| = |x * 2 ^ m - z| / 2 ^ m := by rw [hdiff, abs_neg, abs_div, abs_of_pos hunit]
    _ ≤ 1 / 2 / 2 ^ m := div_le_div_of_nonneg_right h hunit.le
    _ = 1 / 2 ^ (m + 1) := by rw [div_div, pow_succ, mul_comm]

/-- A value at scale `2^(m + s)` that `rnd` brings to scale `2^m`. -/
theorem rnd_scaled {n : Int} {x : ℚ} (m : Nat) {s : Nat} (hs : 1 ≤ s) (hn : (n : ℚ) = x * 2 ^ (m + s)) :
    -(1 / 2 : ℚ) ≤ x * 2 ^ m - rnd n s ∧ x * 2 ^ m - rnd n s < 1 / 2 ∧
      |(rnd n s : ℚ) / 2 ^ m - x| ≤ 1 / 2 ^ (m + 1) := by
  obtain ⟨hlow, hhigh⟩ := rnd_nearest hs (hn.trans (by rw [pow_add, mul_assoc]))
  exact ⟨hlow, hhigh, abs_div_sub_le m (abs_le.mpr ⟨hlow, hhigh.le⟩)⟩

end Sys2Proof.Machine

namespace Sys2Proof
open Machine

/-- Settles O42: `tempN` is the formula at scale 2^48, of which `rnd` takes off 28 bits. -/
theorem temperatureDatapathIsExact : Obligations.TemperatureDatapathIsExact := fun cal raw =>
  ⟨tempN_eq_ideal cal raw, rnd_scaled 20 (by decide) (tempN_eq_ideal cal raw)⟩

/-- Settles O43: `pressN` is the formula at scale 2^97, of which `rnd` takes off 65 bits. -/
theorem pressureDatapathIsExact : Obligations.PressureDatapathIsExact := fun cal up t =>
  ⟨pressN_eq_ideal cal up t, rnd_scaled 32 (by decide) (pressN_eq_ideal cal up t)⟩

/-- Settles O44: each bound of the stage lemmas, evaluated. -/
theorem temperatureStagesFit : Obligations.TemperatureStagesFit := by
  intro cal raw hcal
  refine ⟨abs_tempD1_le cal raw, (abs_tempAcc_le cal raw).trans_lt (by norm_num [shl]),
    ⟨mul_self_nonneg _, ?_⟩, (abs_tempN_le hcal raw).trans (by norm_num [shl]), abs_tempComp_le hcal raw⟩
  exact (le_abs_self _).trans_lt ((abs_tempSq_le cal raw).trans_lt (by norm_num))

/-- Settles O45: each bound of the stage lemmas at the greatest magnitude of the temperature, evaluated. -/
theorem pressureStagesFit : Obligations.PressureStagesFit := by
  intro cal up t hcal ht
  refine ⟨⟨mul_self_nonneg t, ?_⟩, (abs_pressT3_le ht).trans_lt (by norm_num [pressT3, pressT2]),
    (abs_pressO_le hcal ht).trans_lt (by norm_num [shl, pressT3, pressT2]),
    (abs_pressS_le hcal ht).trans (by norm_num [shl, pressT3, pressT2]),
    ⟨mul_self_nonneg _, ?_⟩, ⟨mul_nonneg (mul_self_nonneg _) (Int.natCast_nonneg _), ?_⟩,
    (abs_pressK_le hcal ht).trans (by norm_num [shl]),
    (abs_pressQ_le hcal up ht).trans (by norm_num [shl]), ?_, abs_pressComp_le hcal up ht⟩
  · exact (le_abs_self _).trans_lt ((abs_pressT2_le ht).trans_lt (by norm_num [pressT2]))
  · exact (le_abs_self _).trans_lt ((abs_pressU2_le up).trans_lt (by norm_num))
  · exact (le_abs_self _).trans_lt ((abs_pressU3_le up).trans_lt (by norm_num))
  · have hO := abs_shl_le_of_le (abs_pressO_le hcal ht) 22
    have hS := abs_mul_le_of_le (abs_raw_le up) (abs_pressS_le hcal ht)
    have hQ := abs_shl_le_of_le (abs_pressQ_le hcal up ht) 29
    exact (abs_add_le_of_le (abs_add_le_of_le hO hS) hQ).trans (by norm_num [shl, pressT2, pressT3])

/-- Settles O46: the values are the datapath evaluated at set A. -/
theorem calibrationSetAValues : Obligations.CalibrationSetAValues := by
  rintro _ rfl
  decide

end Sys2Proof
end

section
/-! Single fields of words and bytes: STATUS (spec/10_state.md R37), the read-modify-write values
(spec/40_register_access.md R143, R144) and the configuration registers (spec/43_configuration.md R260,
R270); and the rows of the cell table (spec/41_calibration.md R180). -/

namespace Sys2Proof.Machine

/-! ### The write-backs, bit by bit -/

/-- The field is ORed in at its place, and what is shifted above bit 7 is lost. -/
theorem getLsbD_fieldValue (old val : Byte) (sh : BitVec 3) {j : Nat} (hj : j < 8) :
    (fieldValue old sh val).getLsbD j =
      (old.getLsbD j || (decide (sh.toNat ≤ j) && val.getLsbD (j - sh.toNat))) := by
  rw [fieldValue, BitVec.getLsbD_or, BitVec.getLsbD_shiftLeft]
  grind

/-- The bit is ORed in, where it is to be set. -/
theorem getLsbD_setBitValue (old : Byte) (pos : BitVec 3) (on : BitVec 1) {j : Nat} (hj : j < 8) :
    (setBitValue old pos on).getLsbD j = (old.getLsbD j || (decide (j = pos.toNat) && decide (on = 1))) := by
  have hon : ∀ k, on.getLsbD k = (decide (k = 0) && decide (on = 1)) := fun k => by
    obtain rfl | rfl := BitVec.eq_zero_or_eq_one on
    · simp
    · simp [BitVec.getLsbD_one]
  rw [setBitValue, BitVec.getLsbD_or, BitVec.getLsbD_shiftLeft, BitVec.getLsbD_setWidth, hon]
  grind

/-! ### The configuration registers, field by field -/

/-- SETOSR ORs each code into its own three bits, and leaves the bits above. -/
theorem osr_fields (b : Byte) (t p : BitVec 3) :
    let b' := fieldValue b 0 (packOsr t p)
    b'.extractLsb' 0 3 = b.extractLsb' 0 3 ||| p ∧ b'.extractLsb' 3 3 = b.extractLsb' 3 3 ||| t ∧
      b'.extractLsb' 6 2 = b.extractLsb' 6 2 := by
  simp (disch := decide) only [fieldValue_zero, packOsr_eq_append, BitVec.extractLsb'_or,
    BitVec.extractLsb'_append_eq_of_add_le, BitVec.extractLsb'_append_eq_of_le, Nat.reduceSub,
    BitVec.extractLsb'_eq_self, BitVec.or_zero, and_self]

/-- SETIIR ORs its code into bits 3..1, and leaves the others. -/
theorem iir_fields (b : Byte) (x : BitVec 3) :
    let b' := fieldValue b 1 (x.setWidth 8)
    b'.extractLsb' 1 3 = b.extractLsb' 1 3 ||| x ∧ b'.extractLsb' 4 4 = b.extractLsb' 4 4 ∧
      b'.getLsbD 0 = b.getLsbD 0 := by
  refine ⟨?_, ?_, by rw [getLsbD_fieldValue b _ 1 (by decide)]; simp⟩
  all_goals
    simp (disch := decide) only [fieldValue_one_iir, BitVec.extractLsb'_or,
      BitVec.extractLsb'_append_eq_of_add_le, BitVec.extractLsb'_append_eq_of_le, Nat.reduceSub,
      BitVec.extractLsb'_eq_self, BitVec.or_zero]

/-- SETODR ORs its code into bits 4..0, and leaves the others. -/
theorem odr_fields (b : Byte) (x : BitVec 5) :
    let b' := fieldValue b 0 (x.setWidth 8)
    b'.extractLsb' 0 5 = b.extractLsb' 0 5 ||| x ∧ b'.extractLsb' 5 3 = b.extractLsb' 5 3 := by
  simp (disch := decide) only [fieldValue_zero, setWidth_odr, BitVec.extractLsb'_or,
    BitVec.extractLsb'_append_eq_of_add_le, BitVec.extractLsb'_append_eq_of_le, Nat.reduceSub,
    BitVec.extractLsb'_eq_self, BitVec.or_zero, and_self]

/-- A field of a field. -/
theorem extractLsb'_extractLsb' {w n m start start' : Nat} (x : BitVec w) (h : start' + m ≤ n) :
    (x.extractLsb' start n).extractLsb' start' m = x.extractLsb' (start + start') m := by
  refine BitVec.eq_of_getLsbD_eq fun j hj => ?_
  simp only [BitVec.getLsbD_extractLsb']
  grind

/-- The getters return the field above the byte it is of. -/
theorem osrResult_fields (b : Byte) :
    (osrResult b).extractLsb' 8 3 = b.extractLsb' 0 3 ∧
      (osrResult b).extractLsb' 11 3 = b.extractLsb' 3 3 := by
  simp (disch := decide) only [osrResult_eq_append, BitVec.extractLsb'_append_eq_of_add_le,
    BitVec.extractLsb'_append_eq_of_le, Nat.reduceSub, extractLsb'_extractLsb', Nat.zero_add, and_self]

theorem iirResult_field (b : Byte) : (iirResult b).extractLsb' 8 3 = b.extractLsb' 1 3 := by
  simp (disch := decide) only [iirResult_eq_append, BitVec.extractLsb'_append_eq_of_add_le,
    BitVec.extractLsb'_append_eq_of_le, Nat.reduceSub, BitVec.extractLsb'_eq_self]

theorem odrResult_field (b : Byte) : (odrResult b).extractLsb' 8 5 = b.extractLsb' 0 5 := by
  simp (disch := decide) only [odrResult_eq_append, BitVec.extractLsb'_append_eq_of_add_le,
    BitVec.extractLsb'_append_eq_of_le, Nat.reduceSub, BitVec.extractLsb'_eq_self]

end Sys2Proof.Machine

namespace Sys2Proof
open Machine

/-- Settles O14: STATUS is the fields laid side by side, so each is read back by skipping those below it. -/
theorem statusWordLayout : Obligations.StatusWordLayout := by
  refine ⟨fun st => ⟨?_, ?_, ?_, ?_, ?_, ?_, ?_, ?_, ?_, ?_⟩, Status.reset_word⟩
  all_goals
    simp (disch := decide) only [Status.word, BitVec.getLsbD_append, BitVec.getLsbD_ofBool,
      BitVec.extractLsb'_append_eq_of_add_le, BitVec.extractLsb'_append_eq_of_le, BitVec.extractLsb'_eq_self,
      Nat.reduceSub, Nat.reduceLT, if_true, if_false, decide_true, Bool.true_and]
  all_goals rfl

/-- Settles O38: the rows are the table's own literal, and each CSR offset names its cell. -/
theorem cellTableRows : Obligations.CellTableRows := by
  have hcal : ∀ k : Fin 14, (BitVec.ofNat 8 (0x20 + 4 * k.val)).toNat / 4 = 8 + k.val := by decide
  have hcoef : ∀ k : Fin 14, (BitVec.ofNat 8 (0x60 + 4 * k.val)).toNat / 4 = 24 + k.val := by decide
  exact ⟨rfl, fun k => ⟨csrAt_cal k (hcal k), csrAt_coef k (hcoef k)⟩⟩

/-- Settles O47: one lemma for each write-back. -/
theorem readModifyWriteNeverClears : Obligations.ReadModifyWriteNeverClears := fun old _ hj =>
  ⟨fun pos on => getLsbD_setBitValue old pos on hj, fun sh val => getLsbD_fieldValue old val sh hj⟩

/-- Settles O48: a setter ORs its code into its field alone, so that a field of 0 holds the code and two
sets the OR of both; and the getter's RESULT holds the field. -/
theorem configurationRoundTrip : Obligations.ConfigurationRoundTrip := by
  refine ⟨fun b osrt osrp hzero => ?_, fun b iir hzero => ?_, fun b odr hzero => ?_, fun b t p t' p' => ?_,
    fun b x y => ?_, fun b x y => ?_⟩
  · obtain ⟨hlow, hhigh, hrest⟩ := osr_fields b osrt osrp
    have hcode : ∀ start, start + 3 ≤ 6 → b.extractLsb' start 3 = 0 := fun start hstart => by
      rw [← Nat.zero_add start, ← extractLsb'_extractLsb' b hstart, hzero]
      exact BitVec.extractLsb'_zero
    obtain ⟨hp, ht⟩ := osrResult_fields (fieldValue b 0 (packOsr osrt osrp))
    rw [hcode _ (by decide)] at hlow hhigh
    exact ⟨hp.trans (hlow.trans BitVec.zero_or), ht.trans (hhigh.trans BitVec.zero_or), hrest⟩
  · obtain ⟨hfield, hhigh, hlow⟩ := iir_fields b iir
    rw [hzero] at hfield
    exact ⟨(iirResult_field _).trans (hfield.trans BitVec.zero_or), hhigh, hlow⟩
  · obtain ⟨hfield, hrest⟩ := odr_fields b odr
    rw [hzero] at hfield
    exact ⟨(odrResult_field _).trans (hfield.trans BitVec.zero_or), hrest⟩
  · obtain ⟨hp, ht, -⟩ := osr_fields b t p
    obtain ⟨hp', ht', -⟩ := osr_fields (fieldValue b 0 (packOsr t p)) t' p'
    exact ⟨hp'.trans (by rw [hp]), ht'.trans (by rw [ht])⟩
  · obtain ⟨hx, -⟩ := iir_fields b x
    obtain ⟨hy, -⟩ := iir_fields (fieldValue b 1 (x.setWidth 8)) y
    exact hy.trans (by rw [hx])
  · obtain ⟨hx, -⟩ := odr_fields b x
    obtain ⟨hy, -⟩ := odr_fields (fieldValue b 0 (x.setWidth 8)) y
    exact hy.trans (by rw [hx])

end Sys2Proof
end

section
/-! The assembler (spec/30_encoding.md R118, R119): the word of each line as a number, OPC and the operands
each at its place (R111, R112). -/

namespace Sys2Proof.Machine

/-! ### Words as numbers -/

/-- Fields laid side by side are their numbers, each at its place. -/
theorem ofNat_append_ofNat (m : Nat) {n a b : Nat} (hb : b < 2 ^ n) :
    BitVec.ofNat m a ++ BitVec.ofNat n b = BitVec.ofNat (m + n) (a * 2 ^ n + b) := by
  apply BitVec.eq_of_toNat_eq
  have hdiv : (a * 2 ^ n + b) / 2 ^ n = a := by
    rw [Nat.mul_comm, Nat.mul_add_div (by positivity), Nat.div_eq_of_lt hb, Nat.add_zero]
  have hmod : (a * 2 ^ n + b) % 2 ^ n = b := by
    rw [Nat.mul_comm, Nat.mul_add_mod, Nat.mod_eq_of_lt hb]
  rw [BitVec.toNat_append, BitVec.toNat_ofNat, BitVec.toNat_ofNat, BitVec.toNat_ofNat, Nat.mod_eq_of_lt hb,
    ← Nat.shiftLeft_add_eq_or_of_lt hb, Nat.shiftLeft_eq, Nat.add_comm m, Nat.pow_add, Nat.mod_mul, hdiv,
    hmod]
  ring

theorem encode_read_ofNat {w reg : Nat} (hw : w < 2 ^ 2) (hreg : reg < 2 ^ 8) :
    encode (.read (BitVec.ofNat 2 w) (BitVec.ofNat 8 reg)) =
      BitVec.ofNat 32 (0x1 * 2 ^ 28 + w * 2 ^ 24 + reg) := by
  simp (disch := omega) only [encode, ofNat_append_ofNat]
  exact congrArg (BitVec.ofNat 32) (by ring)

theorem encode_write_ofNat {reg val : Nat} (hreg : reg < 2 ^ 8) (hval : val < 2 ^ 8) :
    encode (.write (BitVec.ofNat 8 reg) (BitVec.ofNat 8 val)) =
      BitVec.ofNat 32 (0x2 * 2 ^ 28 + val * 2 ^ 8 + reg) := by
  simp (disch := omega) only [encode, ofNat_append_ofNat]
  exact congrArg (BitVec.ofNat 32) (by ring)

theorem encode_setbit_ofNat {reg bit on : Nat} (hreg : reg < 2 ^ 8) (hbit : bit < 2 ^ 3) (hon : on < 2 ^ 1) :
    encode (.setbit (BitVec.ofNat 8 reg) (BitVec.ofNat 3 bit) (BitVec.ofNat 1 on)) =
      BitVec.ofNat 32 (0x3 * 2 ^ 28 + on * 2 ^ 19 + bit * 2 ^ 16 + reg) := by
  simp (disch := omega) only [encode, ofNat_append_ofNat]
  exact congrArg (BitVec.ofNat 32) (by ring)

theorem encode_wfield_ofNat {reg sh val : Nat} (hreg : reg < 2 ^ 8) (hsh : sh < 2 ^ 3) (hval : val < 2 ^ 8) :
    encode (.wfield (BitVec.ofNat 8 reg) (BitVec.ofNat 3 sh) (BitVec.ofNat 8 val)) =
      BitVec.ofNat 32 (0x4 * 2 ^ 28 + sh * 2 ^ 16 + val * 2 ^ 8 + reg) := by
  simp (disch := omega) only [encode, ofNat_append_ofNat]
  exact congrArg (BitVec.ofNat 32) (by ring)

theorem encode_compt_ofNat {raw : Nat} (hraw : raw < 2 ^ 24) :
    encode (.compt (BitVec.ofNat 24 raw)) =
      BitVec.ofNat 32 (0x6 * 2 ^ 28 + raw) := by
  simp (disch := omega) only [encode, ofNat_append_ofNat]
  exact congrArg (BitVec.ofNat 32) (by ring)

theorem encode_compp_ofNat {raw : Nat} (hraw : raw < 2 ^ 24) :
    encode (.compp (BitVec.ofNat 24 raw)) =
      BitVec.ofNat 32 (0x7 * 2 ^ 28 + raw) := by
  simp (disch := omega) only [encode, ofNat_append_ofNat]
  exact congrArg (BitVec.ofNat 32) (by ring)

theorem encode_setosr_ofNat {osrt osrp : Nat} (hosrt : osrt < 2 ^ 3) (hosrp : osrp < 2 ^ 3) :
    encode (.setosr (BitVec.ofNat 3 osrt) (BitVec.ofNat 3 osrp)) =
      BitVec.ofNat 32 (0xA * 2 ^ 28 + osrt * 2 ^ 3 + osrp) := by
  simp (disch := omega) only [encode, ofNat_append_ofNat]
  exact congrArg (BitVec.ofNat 32) (by ring)

theorem encode_setiir_ofNat {code : Nat} (hcode : code < 2 ^ 3) :
    encode (.setiir (BitVec.ofNat 3 code)) =
      BitVec.ofNat 32 (0xC * 2 ^ 28 + code) := by
  simp (disch := omega) only [encode, ofNat_append_ofNat]
  exact congrArg (BitVec.ofNat 32) (by ring)

theorem encode_setodr_ofNat {code : Nat} (hcode : code < 2 ^ 5) :
    encode (.setodr (BitVec.ofNat 5 code)) =
      BitVec.ofNat 32 (0xE * 2 ^ 28 + code) := by
  simp (disch := omega) only [encode, ofNat_append_ofNat]
  exact congrArg (BitVec.ofNat 32) (by ring)

/-! ### Lines -/

/-- The word of a line with one command, from the number that its format gives. -/
theorem assembleLine_eq_word {a : AsmLine} (h : a.wellFormed = true) {i : Instr}
    (hexpand : expandLine a = [some i]) {n : Nat} (hword : encode i = BitVec.ofNat 32 n) :
    assembleLine a = some [.submit (BitVec.ofNat 32 n)] := by
  rw [assembleLine, if_pos h, hexpand, ← hword]
  rfl

theorem assembleLine_eq_none_iff (a : AsmLine) : assembleLine a = none ↔ a.wellFormed = false := by
  cases h : a.wellFormed <;> simp [assembleLine, h]

/-- What a line submits is always the word of a command. -/
theorem exists_encode_of_submit {a : AsmLine} {ops : List HostOp} (h : assembleLine a = some ops) {w : Word}
    (hw : HostOp.submit w ∈ ops) : ∃ i, w = encode i := by
  cases hwf : a.wellFormed with
  | false => simp [(assembleLine_eq_none_iff a).mpr hwf] at h
  | true =>
    rw [assembleLine, if_pos hwf] at h
    injection h with h
    rw [← h, List.mem_map] at hw
    obtain ⟨c, -, hc⟩ := hw
    cases c with
    | none => simp at hc
    | some i => exact ⟨i, by simpa using hc.symm⟩

end Sys2Proof.Machine

namespace Sys2Proof
open Machine

/-- Settles O58: a line in range is its one command (`assembleLine_eq_word`), whose word the lemmas above
give as a number; lines without operands are evaluated, and every word submitted is an encoded command,
which O1 decodes. -/
theorem assemblerProducesOnlyCommands : Obligations.AssemblerProducesOnlyCommands := by
  refine ⟨assembleLine_eq_none_iff, fun n reg hn hn' hreg => ?_, fun reg val hreg hval => ?_,
    fun reg bit on hreg hbit hon => ?_, fun reg shift val hreg hshift hval => ?_, rfl, fun raw hraw => ?_,
    fun raw hraw => ?_, rfl, rfl, fun osrP osrT hosrP hosrT => ?_, rfl, fun code hcode => ?_, rfl,
    fun code hcode => ?_, rfl, fun reg => ⟨rfl, rfl, rfl, rfl⟩, rfl, rfl, fun reg bit => ?_,
    fun a ops hops w hw => ?_⟩
  · exact assembleLine_eq_word (by simp [AsmLine.wellFormed, hn, hn', hreg]) rfl
      (encode_read_ofNat (by omega) (by omega))
  · exact assembleLine_eq_word (by simp [AsmLine.wellFormed, hreg, hval]) rfl (encode_write_ofNat hreg hval)
  · exact assembleLine_eq_word (by simp [AsmLine.wellFormed, hreg, hbit, hon]) rfl
      (encode_setbit_ofNat hreg hbit hon)
  · exact assembleLine_eq_word (by simp [AsmLine.wellFormed, hreg, hshift, hval]) rfl
      (encode_wfield_ofNat hreg hshift hval)
  · exact assembleLine_eq_word (by simpa [AsmLine.wellFormed] using hraw) rfl (encode_compt_ofNat hraw)
  · exact assembleLine_eq_word (by simpa [AsmLine.wellFormed] using hraw) rfl (encode_compp_ofNat hraw)
  · exact assembleLine_eq_word (by simp [AsmLine.wellFormed, hosrP, hosrT]) rfl
      (encode_setosr_ofNat hosrT hosrP)
  · exact assembleLine_eq_word (by simp [AsmLine.wellFormed, hcode]) rfl (encode_setiir_ofNat hcode)
  · exact assembleLine_eq_word (by simp [AsmLine.wellFormed, hcode]) rfl (encode_setodr_ofNat hcode)
  · simp [assembleLine, AsmLine.wellFormed, expandLine]
  · obtain ⟨i, rfl⟩ := exists_encode_of_submit hops hw
    exact ⟨i, decodeEncodeAgree i⟩

end Sys2Proof
end
